-- ==== Sys2Proof/Config.lean ====
section
/-! DEFINITION. The constants and parameters of AFR, one for each row of the table of 00_scope.md R4 and under its
names. The literals are unaudited (91_not_in_source.md N16, log entry 18); the widths marked as decisions are the
spec's (92_eei_decisions.md D3, D4, log entry 20). The two OPEN widths are no constants but arguments: `Params`. -/

namespace Sys2Proof

namespace Config

/-! ### Widths -/

/-- BYTE_W: width of a stream element (00_scope.md R4). -/
@[simp] abbrev byteW : Nat := 8

/-- ST_W: width of the parser state register, and of the key field STF that holds its code (00_scope.md R4). -/
@[simp] abbrev stW : Nat := 2

/-- IDX_W: width of the data index counter, and of the key field N (00_scope.md R4). -/
@[simp] abbrev idxW : Nat := 8

/-- VAL_W: width of the accumulated reading (00_scope.md R4). -/
@[simp] abbrev valW : Nat := 16

/-- CSUM_W: width of the running checksum (00_scope.md R4). -/
@[simp] abbrev csumW : Nat := 8

/-- COUNT_W: width of the committed particulate count (00_scope.md R4). -/
@[simp] abbrev countW : Nat := 16

/-! ### The frame grammar -/

/-- HEADER: the byte that opens a frame (00_scope.md R4). -/
def header : BitVec byteW := 0x16

/-- LENGTH: the only accepted length byte, 17 (00_scope.md R4). -/
def length : BitVec byteW := 0x11

/-- COMMAND: the only accepted command byte (00_scope.md R4). -/
def command : BitVec byteW := 0x0B

/-- POS_HI: the data position of the high byte of the reading and of the high override byte (00_scope.md R4). -/
def posHi : BitVec idxW := 3

/-- POS_LO: the data position of the low byte of the reading and of the low override byte (00_scope.md R4). -/
def posLo : BitVec idxW := 4

/-! ### Reset values -/

/-- CTRL_RESET (10_state.md R23, 92_eei_decisions.md D7). DESIGN CHOICE 0, unsafe (log entry 5). -/
def ctrlReset : Nat := 0

/-- COUNT_RESET (10_state.md R23, 92_eei_decisions.md D7). DESIGN CHOICE 0, unsafe (log entry 5). -/
def countReset : BitVec countW := 0

/-- TSTAMP_RESET (10_state.md R23, 92_eei_decisions.md D7). DESIGN CHOICE 0, unsafe (log entry 5). -/
def tstampReset : Nat := 0

/-! ### Outside the block -/

/-- DELAY_UNITS: the pause after each byte, in an unstated unit; documentation only, no rule depends on it
(00_scope.md R4, 70_reset_and_hazards.md R123, log entry 19). -/
def delayUnits : Nat := 1

/-- PUBLISH_INTERVAL: the reader's freshness window, in the unit of `now`: an OPEN parameter with no default
(00_scope.md R4, 92_eei_decisions.md D16), so a constant without a known value. Safe (log entry 8). -/
opaque publishInterval : Nat

end Config

/-- The OPEN widths of 00_scope.md R4, which the model takes as arguments: each machine has its own, and State carries
them (log entry 24). -/
structure Params where
  /-- CTRL_W: width of the Outbound Control Value, at least 16 (92_eei_decisions.md D5, log entry 6). -/
  ctrlW : Nat
  /-- TS_W: width of the timestamp and of the `now` input (92_eei_decisions.md D6, log entry 7). -/
  tsW : Nat
  deriving DecidableEq, Repr

/-- The only bound the spec puts on them (00_scope.md R4). -/
def Params.legal (p : Params) : Bool := decide (16 ≤ p.ctrlW)

/-- The defaults of 00_scope.md R4: CTRL_W = 32, TS_W = 32. -/
def Config.defaults : Params where
  ctrlW := 32
  tsW := 32

end Sys2Proof
end

