-- ==== Sys2Proof/Word.lean ====
section
/-! DEFINITION. The bit-vector types of AFR, of the widths of 00_scope.md R4. Every quantity is unsigned and a
register's sums wrap at its width (00_scope.md R5). The values whose width is an OPEN parameter (CTRL, TSTAMP and `now`)
are natural numbers below two to that width (log entry 25). Operations on any of them that a test could show wrong stand
in Decode.lean and Machine/. -/

namespace Sys2Proof

/-- A stream element, or a recorded byte: BYTE_W bits (20_memory.md R33, 10_state.md R15, R16). -/
abbrev Byte := BitVec Config.byteW

/-- The data index: IDX_W bits (10_state.md R12). -/
abbrev Idx := BitVec Config.idxW

/-- The accumulated reading: VAL_W bits (10_state.md R13). -/
abbrev Val := BitVec Config.valW

/-- The running checksum: CSUM_W bits (10_state.md R14). -/
abbrev Csum := BitVec Config.csumW

/-- The committed count: COUNT_W bits (10_state.md R18). -/
abbrev Count := BitVec Config.countW

/-- The numeric encoding of ST: ST_W bits (10_state.md R11). -/
abbrev StCode := BitVec Config.stW

/-- The event kind EV: 2 bits (30_encoding.md R51). -/
abbrev EventKind := BitVec 2

/-- The event key K = EV ‖ STF ‖ N ‖ B: 20 bits (30_encoding.md R51). -/
abbrev Key := BitVec 20

end Sys2Proof
end

