-- ==== Sys2Proof/Syntax.lean ====
section
/-! DEFINITION. The operations of AFR as syntax: one constructor per row of spec/opcode_table.json
(30_encoding.md R52), in the table's order of subject. Operands are the key fields that a row reads and does not
fix, and the CTRLW event's value, which is carried beside the key (R51). -/

namespace Sys2Proof

/-- The twelve operations. `b` is the received byte (key field B), `n` the incremented data index (key field
N), `w` an unsigned integer, of which CTRL keeps CTRL_W bits (log entry 25). -/
inductive Instr
  /-- RESET, 70_reset_and_hazards.md R107. -/
  | reset
  /-- CTRL.WRITE, 43_control_sensor.md R87: `w` is the event's value. -/
  | ctrlWrite (w : Nat)
  /-- HDR.MATCH, 41_sync.md R72: the byte is HEADER. -/
  | hdrMatch
  /-- HDR.PASS, 41_sync.md R73: any other byte in AwaitHeader. -/
  | hdrPass (b : Byte)
  /-- LEN.MATCH, 41_sync.md R74: the byte is LENGTH. -/
  | lenMatch
  /-- LEN.ABORT, 41_sync.md R75: any other byte in AwaitLength. -/
  | lenAbort (b : Byte)
  /-- CMD.MATCH, 41_sync.md R76: the byte is COMMAND. -/
  | cmdMatch
  /-- CMD.ABORT, 41_sync.md R77: any other byte in AwaitCommand. -/
  | cmdAbort (b : Byte)
  /-- DAT.HI, 42_data.md R80: data position POS_HI. -/
  | datHi (b : Byte)
  /-- DAT.LO, 42_data.md R81: data position POS_LO. -/
  | datLo (b : Byte)
  /-- DAT.END, 42_data.md R82: the position of the trailer. -/
  | datEnd (b : Byte)
  /-- DAT.PASS, 42_data.md R79: data position `n`, none of the above. -/
  | datPass (n : Idx) (b : Byte)
  deriving DecidableEq, Repr

/-- The ten operations that a BYTE event can perform (rows 3 to 12 of 30_encoding.md R52). -/
def Instr.isByteOp : Instr → Bool
  | .reset => false
  | .ctrlWrite _ => false
  | .hdrMatch => true
  | .hdrPass _ => true
  | .lenMatch => true
  | .lenAbort _ => true
  | .cmdMatch => true
  | .cmdAbort _ => true
  | .datHi _ => true
  | .datLo _ => true
  | .datEnd _ => true
  | .datPass _ _ => true

end Sys2Proof
end

