-- ==== Sys2Proof/WellFormed.lean ====
section
/-! DEFINITION. Which terms of Instr are operations of the map: the "otherwise" rows of 30_encoding.md R52 do not
hold the operand values that an earlier row of their state takes (first-match order), and a control write's value has
CTRL_W bits (43_control_sensor.md R87). -/

namespace Sys2Proof

/-- Well-formedness on a machine of these widths: a control write's value fits CTRL_W bits; and one check per
"otherwise" row: HDR.PASS is not HEADER, LEN.ABORT is not LENGTH, CMD.ABORT is not COMMAND, DAT.PASS is not at position
POS_HI, POS_LO or LENGTH (30_encoding.md R52). -/
def Instr.wellFormed (p : Params) : Instr → Bool
  | .reset => true
  | .ctrlWrite w => decide (w < 2 ^ p.ctrlW)
  | .hdrMatch => true
  | .hdrPass b => b != Config.header
  | .lenMatch => true
  | .lenAbort b => b != Config.length
  | .cmdMatch => true
  | .cmdAbort b => b != Config.command
  | .datHi _ => true
  | .datLo _ => true
  | .datEnd _ => true
  | .datPass n _ => n != Config.posHi && n != Config.posLo && n != Config.length

end Sys2Proof
end

