-- ==== Sys2Proof/Decode.lean ====
section
/-! DEFINITION. The event key (30_encoding.md R51), the operation map (R52) as a first-match table, the decoder and
the encoder. The spec gives the key; the bytes it is stored in are the model's own (DESIGN CHOICE, safe, log entry
12): an event record is the key in three bytes, least significant first, whose four spare top bits are zero, and
for a control write (EV = 1) the event's value in as many more bytes as CTRL_W bits take, least significant first,
whose spare top bits are zero. The decoder and the encoder take the widths of the machine as an argument. -/

namespace Sys2Proof

/-- Why a record is rejected. -/
inductive Reject
  /-- EV = 3: reserved, no event has that kind and a model refuses it (30_encoding.md R54 (d)). -/
  | reservedEventKind
  /-- A spare bit of the record is set: one of the key's bits 23 to 20, or one of the control value's above CTRL_W
  (the model's record layout, log entry 12). -/
  | spareBitsSet
  /-- The record ends before its last byte (the model's record layout, log entry 12). -/
  | truncated
  deriving DecidableEq, Repr

/-! ### The key -/

/-- K = EV ‖ STF ‖ N ‖ B (30_encoding.md R51). -/
def mkKey (ev : EventKind) (stf : StCode) (n : Idx) (b : Byte) : Key := ev ++ stf ++ n ++ b

/-- EV = K[19:18]. -/
def keyEv (k : Key) : EventKind := k.extractLsb' 18 2

/-- STF = K[17:16]. -/
def keyStf (k : Key) : StCode := k.extractLsb' 16 2

/-- N = K[15:8]. -/
def keyN (k : Key) : Idx := k.extractLsb' 8 8

/-- B = K[7:0]. -/
def keyB (k : Key) : Byte := k.extractLsb' 0 8

/-! ### The operation map -/

/-- The rows of the table, by name. -/
inductive Row
  | reset | ctrlWrite | hdrMatch | hdrPass | lenMatch | lenAbort
  | cmdMatch | cmdAbort | datHi | datLo | datEnd | datPass
  deriving DecidableEq, Repr

/-- The bits a row tests (column "mask" of 30_encoding.md R52): EV alone, EV and STF, or these with N or with B. -/
def rowMask : Row → Key
  | .reset => mkKey 3 0 0 0
  | .ctrlWrite => mkKey 3 0 0 0
  | .hdrMatch => mkKey 3 3 0 0xFF
  | .hdrPass => mkKey 3 3 0 0
  | .lenMatch => mkKey 3 3 0 0xFF
  | .lenAbort => mkKey 3 3 0 0
  | .cmdMatch => mkKey 3 3 0 0xFF
  | .cmdAbort => mkKey 3 3 0 0
  | .datHi => mkKey 3 3 0xFF 0
  | .datLo => mkKey 3 3 0xFF 0
  | .datEnd => mkKey 3 3 0xFF 0
  | .datPass => mkKey 3 3 0 0

/-- What the tested bits must be (column "match" of 30_encoding.md R52). Row 11 shows N = LENGTH, which is what LEN
holds in every reachable state; that the register itself is compared is in the meanings (42_data.md R78, log entry 10). -/
def rowMatch : Row → Key
  | .reset => mkKey 2 0 0 0
  | .ctrlWrite => mkKey 1 0 0 0
  | .hdrMatch => mkKey 0 0 0 Config.header
  | .hdrPass => mkKey 0 0 0 0
  | .lenMatch => mkKey 0 1 0 Config.length
  | .lenAbort => mkKey 0 1 0 0
  | .cmdMatch => mkKey 0 2 0 Config.command
  | .cmdAbort => mkKey 0 2 0 0
  | .datHi => mkKey 0 3 Config.posHi 0
  | .datLo => mkKey 0 3 Config.posLo 0
  | .datEnd => mkKey 0 3 Config.length 0
  | .datPass => mkKey 0 3 0 0

/-- The rows in the order in which they are tried (30_encoding.md R52). -/
def rowOrder : List Row :=
  [.reset, .ctrlWrite, .hdrMatch, .hdrPass, .lenMatch, .lenAbort,
   .cmdMatch, .cmdAbort, .datHi, .datLo, .datEnd, .datPass]

/-- `K & mask == match`. -/
def rowHolds (k : Key) (r : Row) : Bool := (k &&& rowMask r) == rowMatch r

/-- The first row that holds, if any (30_encoding.md R52). -/
def selectRow (k : Key) : Option Row := rowOrder.find? (rowHolds k)

/-- The operation of a row, its operands taken from the key's fields and from the event's value. -/
def rowInstr (k : Key) (w : Nat) : Row → Instr
  | .reset => .reset
  | .ctrlWrite => .ctrlWrite w
  | .hdrMatch => .hdrMatch
  | .hdrPass => .hdrPass (keyB k)
  | .lenMatch => .lenMatch
  | .lenAbort => .lenAbort (keyB k)
  | .cmdMatch => .cmdMatch
  | .cmdAbort => .cmdAbort (keyB k)
  | .datHi => .datHi (keyB k)
  | .datLo => .datLo (keyB k)
  | .datEnd => .datEnd (keyB k)
  | .datPass => .datPass (keyN k) (keyB k)

/-- The operation a key selects; `w` is the value a control write carries beside it. A key no row holds for has
EV = 3 and is rejected by name (30_encoding.md R52, R54 (d)). -/
def decodeKey (k : Key) (w : Nat) : Except Reject Instr :=
  match selectRow k with
  | some r => .ok (rowInstr k w r)
  | none => .error .reservedEventKind

/-! ### The decoder -/

/-- The key in three bytes, least significant byte first; the top byte's high half is spare. -/
def keyOfBytes (b0 b1 b2 : Byte) : Key := b2.extractLsb' 0 4 ++ b1 ++ b0

/-- How many bytes a control value takes. -/
def ctrlLength (p : Params) : Nat := (p.ctrlW + 7) / 8

/-- The number in a run of bytes, least significant byte first. -/
def natOfBytes : List Byte → Nat
  | [] => 0
  | b :: bs => b.toNat + 256 * natOfBytes bs

/-- The record's operand, for a key whose EV says that it has one. -/
def decodeBody (p : Params) (k : Key) (bs : List Byte) : Except Reject (Instr × List Byte) :=
  if keyEv k = 1 then
    if bs.length < ctrlLength p then .error .truncated
    else if natOfBytes (bs.take (ctrlLength p)) < 2 ^ p.ctrlW then
      (decodeKey k (natOfBytes (bs.take (ctrlLength p)))).map (fun i => (i, bs.drop (ctrlLength p)))
    else .error .spareBitsSet
  else (decodeKey k 0).map (fun i => (i, bs))

/-- The decoder: an event record at the head of a list of bytes, and the bytes after it. Total; what it does not
read as an operation it rejects by name. -/
def decode (p : Params) : List Byte → Except Reject (Instr × List Byte)
  | b0 :: b1 :: b2 :: rest =>
    if b2.extractLsb' 4 4 = 0 then decodeBody p (keyOfBytes b0 b1 b2) rest
    else .error .spareBitsSet
  | _ => .error .truncated

/-! ### The encoder -/

/-- The key of an operation; the fields that its row does not read are zero (30_encoding.md R51, R52). -/
def instrKey : Instr → Key
  | .reset => mkKey 2 0 0 0
  | .ctrlWrite _ => mkKey 1 0 0 0
  | .hdrMatch => mkKey 0 0 0 Config.header
  | .hdrPass b => mkKey 0 0 0 b
  | .lenMatch => mkKey 0 1 0 Config.length
  | .lenAbort b => mkKey 0 1 0 b
  | .cmdMatch => mkKey 0 2 0 Config.command
  | .cmdAbort b => mkKey 0 2 0 b
  | .datHi b => mkKey 0 3 Config.posHi b
  | .datLo b => mkKey 0 3 Config.posLo b
  | .datEnd b => mkKey 0 3 Config.length b
  | .datPass n b => mkKey 0 3 n b

/-- The key fields that carry meaning for an operation (30_encoding.md R51, column "value"). -/
def meaningfulBits : Instr → Key
  | .reset => mkKey 3 0 0 0
  | .ctrlWrite _ => mkKey 3 0 0 0
  | .hdrMatch => mkKey 3 3 0 0xFF
  | .hdrPass _ => mkKey 3 3 0 0xFF
  | .lenMatch => mkKey 3 3 0 0xFF
  | .lenAbort _ => mkKey 3 3 0 0xFF
  | .cmdMatch => mkKey 3 3 0 0xFF
  | .cmdAbort _ => mkKey 3 3 0 0xFF
  | .datHi _ => mkKey 3 3 0xFF 0xFF
  | .datLo _ => mkKey 3 3 0xFF 0xFF
  | .datEnd _ => mkKey 3 3 0xFF 0xFF
  | .datPass _ _ => mkKey 3 3 0xFF 0xFF

/-- A key as three bytes, least significant first, its spare bits zero. -/
def keyBytes (k : Key) : List Byte :=
  [k.extractLsb' 0 8, k.extractLsb' 8 8, (0 : BitVec 4) ++ k.extractLsb' 16 4]

/-- A number as `len` bytes, least significant first. -/
def bytesOfNat : Nat → Nat → List Byte
  | 0, _ => []
  | len + 1, v => BitVec.ofNat Config.byteW v :: bytesOfNat len (v / 256)

/-- The operand words of an operation: the value of a control write, nothing else. -/
def operandBytes (p : Params) : Instr → List Byte
  | .reset => []
  | .ctrlWrite w => bytesOfNat (ctrlLength p) w
  | .hdrMatch => []
  | .hdrPass _ => []
  | .lenMatch => []
  | .lenAbort _ => []
  | .cmdMatch => []
  | .cmdAbort _ => []
  | .datHi _ => []
  | .datLo _ => []
  | .datEnd _ => []
  | .datPass _ _ => []

/-- The encoder: the event record of an operation. -/
def encode (p : Params) (i : Instr) : List Byte := keyBytes (instrKey i) ++ operandBytes p i

/-! ### The table's words -/

/-- The bits of a table word laid out in bytes, the first byte the least significant, every bit above `nbits` zero: the
longest record of a machine with the default widths, three bytes of key and four of operand. -/
def recordBytes (nbits w : Nat) : List Byte := bytesOfNat 7 (w % 2 ^ nbits)

/-- What the decoder reads from an instruction whose bits are `w`, numbered as spec/opcode_table.json numbers them. A
table word has no widths beside it: the defaults are taken (log entry 13). -/
def decodeTableWord (nbits w : Nat) : Option Instr :=
  match decode Config.defaults (recordBytes nbits w) with
  | .ok (i, _) => some i
  | .error _ => none

end Sys2Proof
end

