-- ==== Sys2Proof/Machine/State.lean ====
section
/-! DEFINITION. The state of AFR: the nine registers of 10_state.md R10, the transmit stream and the update strobe
(00_scope.md R8), and the model's own fields: the widths that the machine is built with, the pending events and the
sampled clock (log entries 24, 1 and 2). CTRL, TSTAMP and `now`, whose widths are OPEN, are natural numbers below two to
the width (log entry 25). -/

namespace Sys2Proof.Machine

/-- The parser state ST: the source's enumerated value, every value of the 2-bit register (10_state.md R11). -/
inductive ParserState
  | awaitHeader
  | awaitLength
  | awaitCommand
  | inData
  deriving DecidableEq, Repr

/-- An event (00_scope.md R7). A BYTE event carries the reading that `now` has at its step (10_state.md R22). -/
inductive Event
  /-- BYTE: the serial receiver delivers `b`; the clock reads `t`. -/
  | byte (b : Byte) (t : Nat)
  /-- CTRLW: the control writer writes `w` (43_control_sensor.md R87). -/
  | ctrlw (w : Nat)
  /-- RESET (70_reset_and_hazards.md R107). -/
  | reset
  /-- EV = 3: no event has this kind; it stands here only so that a step can refuse it (30_encoding.md R54 (d)). -/
  | reserved
  deriving DecidableEq, Repr

/-- AFR raises no exception, no trap and no fault (60_exceptions.md R90; 93_implementation_defined.md: nothing in
AFR maps to fault or stuck), so there is no fault reason. -/
inductive Fault
  deriving DecidableEq, Repr

/-- Why a step gives no meaning. -/
inductive Refusal
  /-- Raised by exec's arm of an operation that has no meaning yet; no arm does. Safe. -/
  | notModelled (mnemonic : String)
  /-- Raised by step for an event outside the alphabet, EV = 3, which the spec reserves and tells a model to refuse
  (30_encoding.md R54 (d), 60_exceptions.md R90). Safe (log entry 11). -/
  | rejected (why : Reject)
  deriving DecidableEq, Repr

/-- The state. -/
structure State where
  /-- CTRL_W and TS_W of this machine (00_scope.md R4). No step changes them. The model's own field (log entry 24). -/
  params : Params
  /-- ST, which part of the grammar the next byte is matched against (10_state.md R11). -/
  st : ParserState
  /-- IDX, the data byte index within the current frame (10_state.md R12). -/
  idx : Idx
  /-- VAL, the accumulated 16-bit data value (10_state.md R13). -/
  val : Val
  /-- CSUM, the running checksum (10_state.md R14). -/
  csum : Csum
  /-- LEN, the recorded length byte (10_state.md R15). -/
  len : Byte
  /-- CMD, the recorded command byte (10_state.md R16). -/
  cmd : Byte
  /-- CTRL, the Outbound Control Value, CTRL_W bits (10_state.md R17). -/
  ctrl : Nat
  /-- COUNT, the particulate count of the Sensor Reading (10_state.md R18). -/
  count : Count
  /-- TSTAMP, the timestamp of capture of the Sensor Reading, TS_W bits (10_state.md R19). -/
  tstamp : Nat
  /-- The transmit stream, oldest byte first (20_memory.md R30, R32). -/
  tx : List Byte
  /-- The update strobe `upd_valid`: high after a step that committed (43_control_sensor.md R88, log entry 15). -/
  upd : Bool
  /-- The pending events in their total order (00_scope.md R7); its bytes are the rest of the receive stream
  (20_memory.md R31). The model's own field (log entry 1). -/
  inputs : List Event
  /-- The `now` input as the latest BYTE event presented it, TS_W bits (10_state.md R22). The model's own field (log entry 2). -/
  now : Nat
  deriving DecidableEq, Repr

/-- A machine of these widths right after reset: 10_state.md R23. ST is the source's; the zeros of the other registers
are the spec's decision D7 (DESIGN CHOICE, log entries 4 and 5). Nothing was sent, nothing is pending. -/
def State.resetWith (p : Params) : State where
  params := p
  st := .awaitHeader
  idx := 0
  val := 0
  csum := 0
  len := 0
  cmd := 0
  ctrl := Config.ctrlReset
  count := Config.countReset
  tstamp := Config.tstampReset
  tx := []
  upd := false
  inputs := []
  now := 0

/-- The machine with the default widths right after reset (00_scope.md R4, log entries 6 and 7). -/
def State.reset : State := State.resetWith Config.defaults

end Sys2Proof.Machine
end

