-- ==== Sys2Proof/Machine/Flags.lean ====
section
/-! DEFINITION. AFR has no status flag, condition code or predicate register (10_state.md R20): no operation computes
a flag. The one 1-bit output is the update strobe `upd_valid` (43_control_sensor.md R88, 10_state.md R27). -/

namespace Sys2Proof.Machine

/-- One pulse of the update strobe: high for the step that commits (43_control_sensor.md R88). -/
def pulseStrobe (s : State) : State := { s with upd := true }

/-- Every step begins with the strobe low, so that it is high for one step only (log entry 15). -/
def lowerStrobe (s : State) : State := { s with upd := false }

end Sys2Proof.Machine
end

