-- ==== Sys2Proof/Machine/Operands.lean ====
section
/-! DEFINITION. The values that the operations take apart or put together: the override bytes of CTRL (30_encoding.md
R49), the two terms of the reading (R48), the trailer (R50). -/

namespace Sys2Proof.Machine

/-- The override is enabled by CTRL != 0 over the full width (30_encoding.md R49, 40_step.md R67). -/
def overrideOn (c : Nat) : Bool := c != 0

/-- CTRL[15:8] = `(CTRL / 256) mod 256`, the override byte of position POS_HI (30_encoding.md R49, 40_step.md R67). -/
def ctrlHi (c : Nat) : Byte := BitVec.ofNat Config.byteW (c / 256)

/-- CTRL[7:0] = `CTRL mod 256`, the override byte of position POS_LO (30_encoding.md R49, 40_step.md R67). -/
def ctrlLo (c : Nat) : Byte := BitVec.ofNat Config.byteW c

/-- The outgoing byte at position POS_HI: CTRL[15:8] if the override is on, else the received byte (42_data.md R80). -/
def outAtHi (c : Nat) (b : Byte) : Byte := if overrideOn c then ctrlHi c else b

/-- The outgoing byte at position POS_LO: CTRL[7:0] if the override is on, else the received byte (42_data.md R81). -/
def outAtLo (c : Nat) (b : Byte) : Byte := if overrideOn c then ctrlLo c else b

/-- `zext_16(b) * 256`, the high term of the reading (40_step.md R66). -/
def hiTerm (b : Byte) : Val := b.setWidth Config.valW * 256

/-- `zext_16(b)`, the low term of the reading (40_step.md R66). -/
def loTerm (b : Byte) : Val := b.setWidth Config.valW

/-- The finalizer `(~c + 1) mod 256` (30_encoding.md R50, 40_step.md R69). -/
def trailerOf (c : Csum) : Byte := ~~~c + 1

/-- What a register or port of CTRL_W bits keeps of a number (00_scope.md R5, log entry 25). -/
def ctrlBits (p : Params) (w : Nat) : Nat := w % 2 ^ p.ctrlW

/-- What a register or port of TS_W bits keeps of a number (00_scope.md R5, log entry 25). -/
def timeBits (p : Params) (t : Nat) : Nat := t % 2 ^ p.tsW

/-- The sum modulo 256 of a run of bytes (40_step.md R65). -/
def byteSum : List Byte → Byte
  | [] => 0
  | b :: bs => b + byteSum bs

end Sys2Proof.Machine
end

