-- ==== Sys2Proof/Machine/Ops.lean ====
section
/-! DEFINITION. The named operations over the registers and the transmit stream. AFR has no memory (20_memory.md R30)
and takes no exception (60_exceptions.md R90); what stands in the place of taking one is `abandonFrame`, the whole
effect of a protocol violation (R92), from which there is no return (R93). -/

namespace Sys2Proof.Machine

/-- The last two lines of every byte step: `CSUM <- (CSUM + out) mod 256; TxByte(out)` (40_step.md R60, R62, R63;
the transmit side always accepts, 20_memory.md R32, log entry 3). -/
def sendByte (out : Byte) (s : State) : State := { s with csum := s.csum + out, tx := s.tx ++ [out] }

/-- `ST <- AwaitHeader`: the one write of a protocol violation; nothing is saved or cleared (60_exceptions.md R92). -/
def abandonFrame (s : State) : State := { s with st := .awaitHeader }

/-- The writes of a header match: a frame starts, the counters are cleared (41_sync.md R72). -/
def startFrame (s : State) : State := { s with st := .awaitLength, idx := 0, val := 0, csum := 0 }

/-- `LEN <- b; ST <- AwaitCommand` (41_sync.md R74). -/
def recordLength (b : Byte) (s : State) : State := { s with len := b, st := .awaitCommand }

/-- `CMD <- b; ST <- InData` (41_sync.md R76). -/
def recordCommand (b : Byte) (s : State) : State := { s with cmd := b, st := .inData }

/-- `IDX <- (IDX + 1) mod 256` (40_step.md R68). -/
def advanceIndex (s : State) : State := { s with idx := s.idx + 1 }

/-- `VAL <- (VAL + d) mod 65536` (40_step.md R66). -/
def accumulate (d : Val) (s : State) : State := { s with val := s.val + d }

/-- `Commit(c, t)`: COUNT and TSTAMP in one write, with one pulse of the strobe (43_control_sensor.md R88). -/
def commit (c : Count) (t : Nat) (s : State) : State := pulseStrobe { s with count := c, tstamp := t }

/-- The end test's writes: `if CMD == 0x0B then Commit(VAL, now); ST <- AwaitHeader` (42_data.md R78, R82). -/
def closeFrame (s : State) : State :=
  { (if s.cmd = Config.command then commit s.val s.now s else s) with st := .awaitHeader }

/-- The end test and the skeleton's tail, as they follow the increment and the position 3 and 4 tests in every
InData step: if the new index equals LEN the frame is closed and the trailer replaces `out` (42_data.md R78; the
comparison is with the LEN register, 30_encoding.md R52, log entry 10). -/
def finishData (out : Byte) (s : State) : State :=
  if s.idx = s.len then sendByte (trailerOf s.csum) (closeFrame s) else sendByte out s

/-- `CTRL <- w`, an unsigned integer into CTRL_W bits (43_control_sensor.md R87, log entry 25). -/
def writeControl (w : Nat) (s : State) : State := { s with ctrl := ctrlBits s.params w }

/-- All nine registers to the values of 10_state.md R23; the streams, the boundary and the widths are not
touched (70_reset_and_hazards.md R107). -/
def resetRegisters (s : State) : State :=
  { State.resetWith s.params with tx := s.tx, upd := s.upd, inputs := s.inputs, now := s.now }

end Sys2Proof.Machine
end

