-- ==== Sys2Proof/Machine/Control.lean ====
section
/-! DEFINITION. The operations of the two events that are not bytes: CTRLW (43_control_sensor.md R87) and RESET
(70_reset_and_hazards.md R107). Neither consumes or transmits a byte. -/

namespace Sys2Proof.Machine

/-- CTRL.WRITE (43_control_sensor.md R87). -/
def execCtrlWrite (w : Nat) (s : State) : Host.Outcome State Fault Refusal :=
  .next (writeControl w s)

/-- RESET (70_reset_and_hazards.md R107). Power-up and the firmware's restart are the same event (R113). -/
def execReset (s : State) : Host.Outcome State Fault Refusal :=
  .next (resetRegisters s)

end Sys2Proof.Machine
end

