-- ==== Sys2Proof/Machine/Data.lean ====
section
/-! DEFINITION. The data-phase operations (42_data.md). Each is the complete update R78 for the index that selects it:
the increment, its position test, and then the end test against the LEN register, which in every reachable state
succeeds in DAT.END and nowhere else (10_state.md R24, log entry 10). -/

namespace Sys2Proof.Machine

/-- DAT.PASS (42_data.md R79): a data byte that the parser does not interpret. -/
def execDatPass (b : Byte) (s : State) : Host.Outcome State Fault Refusal :=
  .next (finishData b (advanceIndex s))

/-- DAT.HI (42_data.md R80): VAL takes the received byte, the transmit stream the override byte. -/
def execDatHi (b : Byte) (s : State) : Host.Outcome State Fault Refusal :=
  .next (finishData (outAtHi s.ctrl b) (accumulate (hiTerm b) (advanceIndex s)))

/-- DAT.LO (42_data.md R81): VAL takes the received byte, the transmit stream the override byte. -/
def execDatLo (b : Byte) (s : State) : Host.Outcome State Fault Refusal :=
  .next (finishData (outAtLo s.ctrl b) (accumulate (loTerm b) (advanceIndex s)))

/-- DAT.END (42_data.md R82): the reading is committed, the parser returns to AwaitHeader and the trailer replaces the
received byte. If the incremented index is not LEN, which no run reaches, R78's end test fails and the byte passes. -/
def execDatEnd (b : Byte) (s : State) : Host.Outcome State Fault Refusal :=
  if s.idx + 1 = s.len then .next (sendByte (trailerOf s.csum) (closeFrame (advanceIndex s)))
  else .next (sendByte b (advanceIndex s))

/-- BAD.STATE (42_data.md R83): what a byte step does when ST holds none of the four values. ParserState has no such
value and no key selects it, so step never performs it (log entry 14). -/
def execBadState (b : Byte) (s : State) : Host.Outcome State Fault Refusal :=
  .next (sendByte b (abandonFrame s))

end Sys2Proof.Machine
end

