-- ==== Sys2Proof/Machine/Sync.lean ====
section
/-! DEFINITION. The frame-synchronisation operations (41_sync.md). In all six the received byte is relayed unchanged;
none reads CTRL or `now`, none writes COUNT or TSTAMP. -/

namespace Sys2Proof.Machine

/-- HDR.MATCH (41_sync.md R72): the counters are cleared and the header byte then enters the checksum (40_step.md
R62 (a), 90_conflicts.md C1 and C10, log entry 9). -/
def execHdrMatch (s : State) : Host.Outcome State Fault Refusal :=
  .next (sendByte Config.header (startFrame s))

/-- HDR.PASS (41_sync.md R73): a pass-through; only CSUM takes the skeleton's addition. -/
def execHdrPass (b : Byte) (s : State) : Host.Outcome State Fault Refusal :=
  .next (sendByte b { s with st := .awaitHeader })

/-- LEN.MATCH (41_sync.md R74). -/
def execLenMatch (s : State) : Host.Outcome State Fault Refusal :=
  .next (sendByte Config.length (recordLength Config.length s))

/-- LEN.ABORT (41_sync.md R75): LEN is not written; the byte is not looked at again (40_step.md R71). -/
def execLenAbort (b : Byte) (s : State) : Host.Outcome State Fault Refusal :=
  .next (sendByte b (abandonFrame s))

/-- CMD.MATCH (41_sync.md R76). -/
def execCmdMatch (s : State) : Host.Outcome State Fault Refusal :=
  .next (sendByte Config.command (recordCommand Config.command s))

/-- CMD.ABORT (41_sync.md R77): CMD is not written; the byte is not looked at again (40_step.md R71). -/
def execCmdAbort (b : Byte) (s : State) : Host.Outcome State Fault Refusal :=
  .next (sendByte b (abandonFrame s))

end Sys2Proof.Machine
end

