-- ==== Sys2Proof/Machine/Dispatch.lean ====
section
/-! DEFINITION. One arm per operation, each a direct call of its meaning. -/

namespace Sys2Proof.Machine

def exec (i : Instr) (s : State) : Host.Outcome State Fault Refusal :=
  match i with
  | .reset => Sys2Proof.Machine.execReset s
  | .ctrlWrite w => Sys2Proof.Machine.execCtrlWrite w s
  | .hdrMatch => Sys2Proof.Machine.execHdrMatch s
  | .hdrPass b => Sys2Proof.Machine.execHdrPass b s
  | .lenMatch => Sys2Proof.Machine.execLenMatch s
  | .lenAbort b => Sys2Proof.Machine.execLenAbort b s
  | .cmdMatch => Sys2Proof.Machine.execCmdMatch s
  | .cmdAbort b => Sys2Proof.Machine.execCmdAbort b s
  | .datHi b => Sys2Proof.Machine.execDatHi b s
  | .datLo b => Sys2Proof.Machine.execDatLo b s
  | .datEnd b => Sys2Proof.Machine.execDatEnd b s
  -- N is IDX + 1 by the key's own definition; the meaning computes it from IDX, as 42_data.md R79 does
  | .datPass _ b => Sys2Proof.Machine.execDatPass b s

end Sys2Proof.Machine
end

