-- ==== Sys2Proof/Machine/Fetch.lean ====
section
/-! DEFINITION. How a step finds its operation: the event key K of the next event in the present state
(30_encoding.md R51), the operand beside it, and what taking the event from the queue changes. AFR has no instruction
fetch (20_memory.md R42); this stands in its place. -/

namespace Sys2Proof.Machine

/-- The numeric encoding of ST: AwaitHeader 0, AwaitLength 1, AwaitCommand 2, InData 3 (10_state.md R11). -/
def stCode : ParserState → StCode
  | .awaitHeader => 0
  | .awaitLength => 1
  | .awaitCommand => 2
  | .inData => 3

/-- The named state of a 2-bit code: every code has one (10_state.md R11). -/
def stOfCode (c : StCode) : ParserState :=
  if c = 0 then .awaitHeader
  else if c = 1 then .awaitLength
  else if c = 2 then .awaitCommand
  else .inData

/-- EV (30_encoding.md R51). -/
def evCode : Event → EventKind
  | .byte _ _ => 0
  | .ctrlw _ => 1
  | .reset => 2
  | .reserved => 3

/-- B, the received byte; zero where there is none and the field has no meaning (30_encoding.md R51). -/
def evByte : Event → Byte
  | .byte b _ => b
  | .ctrlw _ => 0
  | .reset => 0
  | .reserved => 0

/-- The value carried beside the key: a control write's (30_encoding.md R51). -/
def evOperand : Event → Nat
  | .byte _ _ => 0
  | .ctrlw w => w
  | .reset => 0
  | .reserved => 0

/-- The `now` input at the event's step: a BYTE event presents a reading, of which the port takes TS_W bits, the others
leave the port alone (10_state.md R22, log entries 2 and 25). -/
def evNow (p : Params) (ev : Event) (held : Nat) : Nat :=
  match ev with
  | .byte _ t => timeBits p t
  | .ctrlw _ => held
  | .reset => held
  | .reserved => held

/-- The event key: EV, ST before the step, `(IDX + 1) mod 256`, the received byte (30_encoding.md R51). -/
def eventKey (s : State) (ev : Event) : Key := mkKey (evCode ev) (stCode s.st) (s.idx + 1) (evByte ev)

/-- The operation that an event performs in a state (30_encoding.md R52). -/
def selectInstr (s : State) (ev : Event) : Except Reject Instr := decodeKey (eventKey s ev) (evOperand ev)

/-- Taking the event: it leaves the queue for good (for a byte, `RxByte()`, 20_memory.md R31), the clock port shows
its reading, and the strobe is low. -/
def accept (ev : Event) (rest : List Event) (s : State) : State :=
  lowerStrobe { s with inputs := rest, now := evNow s.params ev s.now }

/-- Puts an event at the head of the queue. -/
def offer (ev : Event) (s : State) : State := { s with inputs := ev :: s.inputs }

/-- Sets what makes the key of a BYTE event in this state read STF and N: ST; and for InData, where N is looked at,
IDX = N - 1 and LEN = LENGTH, the value that the table's rows 9 to 12 are written for (30_encoding.md R52, 42_data.md
R78, log entry 13). -/
def placeParser (k : Key) (s : State) : State :=
  if keyStf k = 3 then { s with st := .inData, idx := keyN k - 1, len := Config.length }
  else { s with st := stOfCode (keyStf k) }

/-- A state whose next step performs what the key (and the value `w` beside it) stands for. -/
def placeKey (k : Key) (w : Nat) (s : State) : State :=
  if keyEv k = 0 then offer (.byte (keyB k) s.now) (placeParser k s)
  else if keyEv k = 1 then offer (.ctrlw w) s
  else if keyEv k = 2 then offer .reset s
  else offer .reserved s

/-- The same for an event record of `nbits` bits; a record whose spare bits are set stands for no event. A record of seven
bytes holds any value of the default CTRL_W bits (log entry 13). -/
def placeRecord (nbits w : Nat) (s : State) : State :=
  if (w % 2 ^ nbits) / 2 ^ 20 % 16 = 0 then
    placeKey (BitVec.ofNat 20 (w % 2 ^ nbits)) (natOfBytes ((recordBytes nbits w).drop 3)) s
  else offer .reserved s

end Sys2Proof.Machine
end

