-- ==== Sys2Proof/Machine/Step.lean ====
section
/-! DEFINITION. One step: the next event of the queue, one operation, indivisibly (00_scope.md R7, 20_memory.md R38). -/

namespace Sys2Proof.Machine

/-- A step takes the next event and performs the operation its key selects (40_step.md R60). With no event pending
AFR holds its registers (20_memory.md R31, 60_exceptions.md R105; log entry 16). An event outside the alphabet is
refused (30_encoding.md R54 (d)). -/
def step (s : State) : Host.Outcome State Fault Refusal :=
  match s.inputs with
  | [] => .next (lowerStrobe s)
  | ev :: rest =>
    match selectInstr s ev with
    | .ok i => exec i (accept ev rest s)
    | .error why => .refused (.rejected why)

/-- `s` with the table's word placed where the next step finds it (log entry 13). -/
def State.withFetchWord (s : State) (nbits w : Nat) : State := placeRecord nbits w s

end Sys2Proof.Machine
end

