-- ==== Sys2Proof/Machine/Ports.lean ====
section
/-! DEFINITION. AFR at port level (10_state.md R27): what the input ports of one step boundary mean as events
(30_encoding.md R58), the boundary as a run of those events, and the output ports. -/

namespace Sys2Proof.Machine

/-- The input ports sampled at a step boundary: `rst`, `rx_valid` with `rx_byte`, `ctrl_we` with `ctrl_wdata`, and
`now` (10_state.md R27). -/
structure PortsIn where
  rst : Bool
  rxValid : Bool
  rxByte : Byte
  ctrlWe : Bool
  ctrlWdata : Nat
  now : Nat
  deriving DecidableEq, Repr

/-- The output ports after a boundary: `tx_valid` with `tx_byte` (none: not valid), `count`, `tstamp`, `upd_valid`
(10_state.md R27). -/
structure PortsOut where
  tx : Option Byte
  count : Count
  tstamp : Nat
  updValid : Bool
  deriving DecidableEq, Repr

/-- RESET alone, and a byte or a write presented with it is lost; otherwise the byte, then the control write
(30_encoding.md R58, 60_exceptions.md R95, log entry 17). -/
def eventsOf (p : PortsIn) : List Event :=
  if p.rst then [.reset]
  else (if p.rxValid then [.byte p.rxByte p.now] else []) ++ (if p.ctrlWe then [.ctrlw p.ctrlWdata] else [])

/-- Runs events one after the other, each as one step on a queue that holds it alone, and says whether a step
committed. -/
def runEvents : List Event → State → Bool → Host.Outcome (State × Bool) Fault Refusal
  | [], s, u => .next (s, u)
  | ev :: evs, s, u =>
    match step { s with inputs := [ev] } with
    | .next t => runEvents evs t (u || t.upd)
    | .fault r => .fault r
    | .refused r => .refused r

/-- One step boundary: the state after it and what the output ports show. At port level there is no queue: the
boundary starts from `s` with its pending events set aside. -/
def boundary (p : PortsIn) (s : State) : Host.Outcome (State × PortsOut) Fault Refusal :=
  match runEvents (eventsOf p) { s with upd := false, inputs := [] } false with
  | .next (t, u) =>
    .next ({ t with inputs := s.inputs }, { tx := (t.tx.drop s.tx.length).head?, count := t.count, tstamp := t.tstamp, updValid := u })
  | .fault r => .fault r
  | .refused r => .refused r

end Sys2Proof.Machine
end

