-- ==== Sys2Proof/Machine/Sensor.lean ====
section
/-! DEFINITION. The reader's side of the Sensor Reading (43_control_sensor.md R89). The reader acts between events and
its reads have no effect; AFR never evaluates the freshness predicate. -/

namespace Sys2Proof.Machine

/-- What the outside reader reads: COUNT and TSTAMP (43_control_sensor.md R89). -/
def reading (s : State) : Count × Nat := (s.count, s.tstamp)

/-- The age of a reading, `(t_now - TSTAMP) mod 2^TS_W` (43_control_sensor.md R89, log entry 8). -/
def ageOf (p : Params) (tNow tstamp : Nat) : Nat := (((tNow : Int) - tstamp) % 2 ^ p.tsW).toNat

/-- Freshness for a given publish interval: the age is strictly below it (43_control_sensor.md R89). -/
def freshWithin (interval tNow : Nat) (s : State) : Bool := decide (ageOf s.params tNow s.tstamp < interval)

/-- Freshness for the platform's PUBLISH_INTERVAL, whose value nobody knows (00_scope.md R4, log entry 8). -/
def fresh (tNow : Nat) (s : State) : Bool := freshWithin Config.publishInterval tNow s

end Sys2Proof.Machine
end

