-- ==== Sys2Proof/Machine/Trace.lean ====
section
/-! DEFINITION. The trace notation (30_encoding.md R56), stimulus and expectation lines, and the frame shorthands
(R57). A trace is data; running one says whether every expectation in it is met. -/

namespace Sys2Proof.Machine

/-- The nine registers by name (10_state.md R10). -/
inductive Reg
  | st | idx | val | csum | len | cmd | ctrl | count | tstamp
  deriving DecidableEq, Repr

/-- A register's contents as a number, ST by its numeric encoding (10_state.md R11). -/
def regValue (s : State) : Reg → Nat
  | .st => (stCode s.st).toNat
  | .idx => s.idx.toNat
  | .val => s.val.toNat
  | .csum => s.csum.toNat
  | .len => s.len.toNat
  | .cmd => s.cmd.toNat
  | .ctrl => s.ctrl
  | .count => s.count.toNat
  | .tstamp => s.tstamp

/-- A line of a trace (30_encoding.md R56). -/
inductive TraceLine
  /-- `reset`. -/
  | reset
  /-- `ctrl V`. -/
  | ctrl (v : Nat)
  /-- `now T`. -/
  | now (t : Nat)
  /-- `rx HH HH ...`. -/
  | rx (bs : List Byte)
  /-- `tx HH HH ...`, an expectation. -/
  | tx (bs : List Byte)
  /-- `upd C @ T`, an expectation. -/
  | upd (c : Count) (t : Nat)
  /-- `noupd`, an expectation. -/
  | noupd
  /-- `state ST=.. IDX=.. ...`, an expectation on the registers it names. -/
  | state (rs : List (Reg × Nat))
  deriving DecidableEq, Repr

/-- Where a trace stands: the machine, what `now` reads, and what the latest `rx` line transmitted and committed. -/
structure TraceRun where
  machine : State
  clock : Nat
  sent : List Byte
  commits : List (Count × Nat)
  deriving DecidableEq, Repr

/-- One event of a trace: one step on a queue that holds it alone. -/
def traceEvent (ev : Event) (r : TraceRun) : Option TraceRun :=
  match step { r.machine with inputs := [ev] } with
  | .next t =>
    some { r with machine := t, sent := r.sent ++ t.tx.drop r.machine.tx.length
                  commits := r.commits ++ (if t.upd then [(t.count, t.tstamp)] else []) }
  | .fault _ => none
  | .refused _ => none

/-- The bytes of an `rx` line, left to right. -/
def traceBytes : List Byte → TraceRun → Option TraceRun
  | [], r => some r
  | b :: bs, r => (traceEvent (.byte b r.clock) r).bind (traceBytes bs)

/-- One line; none when it is an expectation that is not met. -/
def traceLine (l : TraceLine) (r : TraceRun) : Option TraceRun :=
  match l with
  | .reset => traceEvent .reset r
  | .ctrl v => traceEvent (.ctrlw v) r
  | .now t => some { r with clock := t }
  | .rx bs => traceBytes bs { r with sent := [], commits := [] }
  | .tx bs => if r.sent = bs then some r else none
  | .upd c t => if r.commits = [(c, t)] then some r else none
  | .noupd => if r.commits = [] then some r else none
  | .state rs => if rs.all (fun x => regValue r.machine x.1 == x.2) then some r else none

/-- The lines of a trace, top to bottom. -/
def traceLines : List TraceLine → TraceRun → Option TraceRun
  | [], r => some r
  | l :: ls, r => (traceLine l r).bind (traceLines ls)

/-- Every expectation of a trace is met, from a state, with the clock reading `t` at the start. -/
def traceHolds (s : State) (t : Nat) (ls : List TraceLine) : Bool :=
  (traceLines ls { machine := s, clock := t, sent := [], commits := [] }).isSome

/-- The first three bytes of a frame (30_encoding.md R45, R46). -/
def frameHead : List Byte := [Config.header, Config.length, Config.command]

/-- FRAMEX(d1, ..., d16, x): the explicit byte `x` at position 17 (30_encoding.md R57). -/
def frameX (d : List Byte) (x : Byte) : List Byte := frameHead ++ d ++ [x]

/-- FRAME(d1, ..., d16): the bytes of the frame sum to zero (30_encoding.md R57). -/
def frame (d : List Byte) : List Byte := frameX d (0 - byteSum (frameHead ++ d))

end Sys2Proof.Machine
end

