-- ==== Sys2Proof/Safety.lean ====
section
/-! DEFINITION. The terms in which claims about AFR are made: runs, the strobe pulses of a run, the invariant of the
reachable states (10_state.md R24), what an operation may write (the "Writes:" lines of its rule), the complete data
update as 42_data.md R78 prints it, and stimuli in which control writes fall anywhere between bytes. -/

namespace Sys2Proof.Machine

/-! ### Runs -/

/-- `n` steps, stopping at a fault or a refusal. -/
def stepN : Nat → State → Host.Outcome State Fault Refusal
  | 0, s => .next s
  | n + 1, s =>
    match step s with
    | .next t => stepN n t
    | .fault r => .fault r
    | .refused r => .refused r

/-- How many of the next `n` steps end with the update strobe high. -/
def strobes : Nat → State → Nat
  | 0, _ => 0
  | n + 1, s =>
    match step s with
    | .next t => (if t.upd then 1 else 0) + strobes n t
    | .fault _ => 0
    | .refused _ => 0

/-! ### The invariant -/

/-- The last `n` elements of a stream. -/
def lastBytes (n : Nat) (bs : List Byte) : List Byte := bs.drop (bs.length - n)

/-- What 10_state.md R24 says of the reachable states, as far as one state shows it; and the ranges of the values whose
widths are OPEN parameters. -/
structure ParserInv (s : State) : Prop where
  /-- CTRL_W is at least 16 (00_scope.md R4). -/
  legal : s.params.legal = true
  /-- CTRL has CTRL_W bits (R17). -/
  ctrl_lt : s.ctrl < 2 ^ s.params.ctrlW
  /-- TSTAMP has TS_W bits (R19). -/
  tstamp_lt : s.tstamp < 2 ^ s.params.tsW
  /-- `now` has TS_W bits (R22). -/
  now_lt : s.now < 2 ^ s.params.tsW
  /-- IDX stays in 0 to 17 (R12, R24). -/
  idx_le : s.idx.toNat ≤ 17
  /-- R24, row AwaitLength. -/
  awaitLength : s.st = .awaitLength → s.idx = 0 ∧ s.val = 0 ∧ s.csum = Config.header
  /-- R24, row AwaitCommand. -/
  awaitCommand : s.st = .awaitCommand →
    s.idx = 0 ∧ s.val = 0 ∧ s.csum = Config.header + Config.length ∧ s.len = Config.length
  /-- R24, row InData: the recorded bytes and the index. -/
  inData : s.st = .inData → s.len = Config.length ∧ s.cmd = Config.command ∧ s.idx.toNat ≤ 16
  /-- R24, row InData: the checksum covers the head and the bytes sent at data positions 1 to IDX. -/
  inDataSum : s.st = .inData → s.idx.toNat ≤ s.tx.length ∧
    s.csum = Config.header + Config.length + Config.command + byteSum (lastBytes s.idx.toNat s.tx)
  /-- R24, row InData with IDX < 3. -/
  inDataEarly : s.st = .inData → s.idx.toNat < 3 → s.val = 0
  /-- R24, row InData with IDX = 3: the low byte of the reading has not come yet. -/
  inDataHigh : s.st = .inData → s.idx = 3 → s.val.extractLsb' 0 8 = 0

/-! ### What an operation may write -/

/-- Two states hold the same value in a register. -/
def sameReg : Reg → State → State → Prop
  | .st, s, t => s.st = t.st
  | .idx, s, t => s.idx = t.idx
  | .val, s, t => s.val = t.val
  | .csum, s, t => s.csum = t.csum
  | .len, s, t => s.len = t.len
  | .cmd, s, t => s.cmd = t.cmd
  | .ctrl, s, t => s.ctrl = t.ctrl
  | .count, s, t => s.count = t.count
  | .tstamp, s, t => s.tstamp = t.tstamp

/-- The "Writes:" line of each operation's rule (41_sync.md R72 to R77, 42_data.md R79 to R82, 43_control_sensor.md
R87, 70_reset_and_hazards.md R107). -/
def writes : Instr → List Reg
  | .reset => [.st, .idx, .val, .csum, .len, .cmd, .ctrl, .count, .tstamp]
  | .ctrlWrite _ => [.ctrl]
  | .hdrMatch => [.st, .idx, .val, .csum]
  | .hdrPass _ => [.csum, .st]
  | .lenMatch => [.len, .st, .csum]
  | .lenAbort _ => [.st, .csum]
  | .cmdMatch => [.cmd, .st, .csum]
  | .cmdAbort _ => [.st, .csum]
  | .datHi _ => [.idx, .val, .csum]
  | .datLo _ => [.idx, .val, .csum]
  | .datEnd _ => [.idx, .st, .count, .tstamp, .csum]
  | .datPass _ _ => [.idx, .csum]

/-- The relation of the incremented index to LEN under which an InData rule applies: DAT.END at LEN, DAT.PASS, DAT.HI
and DAT.LO elsewhere (42_data.md R78 to R82); it holds in every reachable state in which the operation is selected. -/
def ruleApplies : Instr → State → Prop
  | .datHi _, s => s.idx + 1 ≠ s.len
  | .datLo _, s => s.idx + 1 ≠ s.len
  | .datPass _ _, s => s.idx + 1 ≠ s.len
  | .datEnd _, s => s.idx + 1 = s.len
  | .reset, _ => True
  | .ctrlWrite _, _ => True
  | .hdrMatch, _ => True
  | .hdrPass _, _ => True
  | .lenMatch, _ => True
  | .lenAbort _, _ => True
  | .cmdMatch, _ => True
  | .cmdAbort _, _ => True

/-! ### The complete data update, line by line -/

/-- The registers and `out` as the lines of 42_data.md R78 read and write them. -/
structure DataVars where
  st : ParserState
  val : Val
  out : Byte
  count : Count
  tstamp : Nat
  upd : Bool
  deriving DecidableEq, Repr

/-- R78's lines for position 3. -/
def lineHi (n : Idx) (b : Byte) (c : Nat) (v : DataVars) : DataVars :=
  if n = Config.posHi then
    { v with val := v.val + b.setWidth 16 * 256, out := if c ≠ 0 then BitVec.ofNat 8 (c / 256) else v.out }
  else v

/-- R78's lines for position 4. -/
def lineLo (n : Idx) (b : Byte) (c : Nat) (v : DataVars) : DataVars :=
  if n = Config.posLo then
    { v with val := v.val + b.setWidth 16, out := if c ≠ 0 then BitVec.ofNat 8 c else v.out }
  else v

/-- R78's lines for the end of the frame. -/
def lineEnd (n : Idx) (len cmd : Byte) (csum : Csum) (t : Nat) (v : DataVars) : DataVars :=
  if n = len then
    let v := if cmd = Config.command then { v with count := v.val, tstamp := t, upd := true } else v
    { v with st := .awaitHeader, out := ~~~csum + 1 }
  else v

/-- The complete state update of an InData byte step, for any register contents (42_data.md R78), on the state that
the step has after it took the byte. -/
def completeUpdate (b : Byte) (s : State) : State :=
  let n := s.idx + 1
  let v : DataVars := { st := s.st, val := s.val, out := b, count := s.count, tstamp := s.tstamp, upd := s.upd }
  let v := lineEnd n s.len s.cmd s.csum s.now (lineLo n b s.ctrl (lineHi n b s.ctrl v))
  { s with st := v.st, idx := n, val := v.val, csum := s.csum + v.out, count := v.count, tstamp := v.tstamp
           upd := v.upd, tx := s.tx ++ [v.out] }

/-! ### Stimuli -/

/-- Two events that agree in kind, byte and value: they differ in the clock reading alone, if at all. -/
abbrev sameButReading (ev ev' : Event) : Prop :=
  evCode ev = evCode ev' ∧ evByte ev = evByte ev' ∧ evOperand ev = evOperand ev'

/-- A received byte, the clock at its step, and the control writes that fall between the byte before it and it. -/
structure Chunk where
  ctrlWrites : List Nat
  byte : Byte
  time : Nat
  deriving DecidableEq, Repr

/-- The events of a chunk, in order. -/
def chunkEvents (c : Chunk) : List Event := c.ctrlWrites.map .ctrlw ++ [.byte c.byte c.time]

/-- The events of a stimulus: bytes in their order, control writes anywhere between them (00_scope.md R7). -/
def stimulus (cs : List Chunk) : List Event := cs.flatMap chunkEvents

/-- The value of CTRL after control writes, one after the other: the CTRL_W bits of the last, or the value before. -/
def lastWrite (p : Params) (c : Nat) (ws : List Nat) : Nat := ws.foldl (fun _ w => ctrlBits p w) c

/-- The value of CTRL after the control writes of a stimulus. -/
def ctrlAfter (p : Params) (c : Nat) (cs : List Chunk) : Nat := lastWrite p c (cs.flatMap Chunk.ctrlWrites)

end Sys2Proof.Machine
end

