-- ==== Sys2Proof/Certificates/Slice0/Obligations.lean ====
section
/-! DEFINITION. The statements about AFR, for the provers. Each docstring says which rule of spec/ it formalises. A
statement that rests on a value or an order that the spec marks as its own decision, or on the model's own boundary
fields (`inputs`, `now`, the strobe's timing, the record layout), says so and names the log entry. -/

open Sys2Proof Sys2Proof.Machine

/-! ### Encoding -/

/-- Decoding the record of a well-formed operation gives it back, with the bytes after it (30_encoding.md section 3;
the record's bytes are the model's own layout, log entry 12), on a machine of any widths. -/
def Obligations.DecodeOfEncode : Prop :=
  ∀ (p : Params) (i : Instr) (rest : List Byte), i.wellFormed p = true →
    decode p (encode p i ++ rest) = .ok (i, rest)

/-- 30_encoding.md R52: the masks and matches of the twelve rows in their order; the first row that holds is the
operation performed; and which operation that is, by the column "condition in words" (row 11 shows N = 17, the number
the rule gives). `rowInstr` puts the key's fields into the row's operands. -/
def Obligations.OperationMapByCondition : Prop :=
  (rowOrder.map (fun r => (rowMask r, rowMatch r)) =
    [(0xC0000, 0x80000), (0xC0000, 0x40000), (0xF00FF, 0x00016), (0xF0000, 0x00000),
     (0xF00FF, 0x10011), (0xF0000, 0x10000), (0xF00FF, 0x2000B), (0xF0000, 0x20000),
     (0xFFF00, 0x30300), (0xFFF00, 0x30400), (0xFFF00, 0x31100), (0xF0000, 0x30000)]) ∧
  (∀ (k : Key) (w : Nat) (r : Row) (before after : List Row), rowOrder = before ++ r :: after →
    k &&& rowMask r = rowMatch r → (∀ q ∈ before, k &&& rowMask q ≠ rowMatch q) →
    decodeKey k w = .ok (rowInstr k w r)) ∧
  ∀ (k : Key) (w : Nat), keyEv k ≠ 3 →
    decodeKey k w = .ok (
      if keyEv k = 2 then .reset
      else if keyEv k = 1 then .ctrlWrite w
      else if keyStf k = 0 then (if keyB k = 0x16 then .hdrMatch else .hdrPass (keyB k))
      else if keyStf k = 1 then (if keyB k = 0x11 then .lenMatch else .lenAbort (keyB k))
      else if keyStf k = 2 then (if keyB k = 0x0B then .cmdMatch else .cmdAbort (keyB k))
      else if keyN k = 3 then .datHi (keyB k)
      else if keyN k = 4 then .datLo (keyB k)
      else if keyN k = 17 then .datEnd (keyB k)
      else .datPass (keyN k) (keyB k))

/-- 30_encoding.md R53 (an inference the spec marks as derived): every key with EV = 0 selects one of the ten byte
operations, whatever the operand beside it. -/
def Obligations.EveryByteKeySelectsOneByteOperation : Prop :=
  ∀ k : Key, keyEv k = 0 → ∃ i : Instr, i.isByteOp = true ∧ ∀ w : Nat, decodeKey k w = .ok i

/-- What is decoded is well-formed, and its own key is the decoded key on the fields that carry meaning for it: no
meaningful bit is dropped or invented (30_encoding.md section 3, the columns of R51 and R52); a control write keeps the
value beside its key, which fits CTRL_W bits. -/
def Obligations.DecodedKeyReencodes : Prop :=
  ∀ (p : Params) (k : Key) (w : Nat) (i : Instr), w < 2 ^ p.ctrlW → decodeKey k w = .ok i →
    i.wellFormed p = true ∧ instrKey i = k &&& meaningfulBits i ∧
      operandBytes p i = if keyEv k = 1 then bytesOfNat (ctrlLength p) w else []

/-- Keys written out in the spec's test vectors select the operations named there (95_test_vectors.md section 2.1). That
0x40000 decodes with the operand 0 is not the vectors': the value is carried beside the key, and in the model's own
record layout (log entry 12) the bits above a word of 24 are zero. -/
def Obligations.SampleKeysDecode : Prop :=
  decodeTableWord 24 0xBFFFF = some .reset ∧
  decodeTableWord 24 0x40000 = some (.ctrlWrite 0) ∧
  decodeTableWord 24 0x01216 = some .hdrMatch ∧
  decodeTableWord 24 0x00017 = some (.hdrPass 0x17) ∧
  decodeTableWord 24 0x10111 = some .lenMatch ∧
  decodeTableWord 24 0x10116 = some (.lenAbort 0x16) ∧
  decodeTableWord 24 0x2010B = some .cmdMatch ∧
  decodeTableWord 24 0x2010C = some (.cmdAbort 0x0C) ∧
  decodeTableWord 24 0x30312 = some (.datHi 0x12) ∧
  decodeTableWord 24 0x30434 = some (.datLo 0x34) ∧
  decodeTableWord 24 0x31116 = some (.datEnd 0x16) ∧
  decodeTableWord 24 0x31004 = some (.datPass 16 0x04) ∧
  decodeTableWord 24 0xC0000 = none

/-- Event kind 3 is reserved and a model refuses it: so does the decoder, and so does a step that meets such an event
(30_encoding.md section 4, R54 (d), a decision of the spec; log entry 11). -/
def Obligations.ReservedEventKindIsRefused : Prop :=
  (∀ (k : Key) (w : Nat), keyEv k = 3 → decodeKey k w = .error .reservedEventKind) ∧
  ∀ (s : State) (rest : List Event), s.inputs = .reserved :: rest →
    step s = .refused (.rejected .reservedEventKind)

/-! ### A step -/

/-- When the key of the next event decodes to `i`, a step is `exec i` on the state that has taken the event: the event
is off the queue, the clock port shows the TS_W bits of its reading, the strobe is low (30_encoding.md section 3,
40_step.md section 1; log entries 1, 2, 15, 25). -/
def Obligations.StepRunsTheDecodedOperation : Prop :=
  ∀ (s : State) (ev : Event) (rest : List Event) (i : Instr), s.inputs = ev :: rest →
    decodeKey (mkKey (evCode ev) (stCode s.st) (s.idx + 1) (evByte ev)) (evOperand ev) = .ok i →
    step s = exec i { s with inputs := rest, now := evNow s.params ev s.now, upd := false }

/-- The word that `withFetchWord` places is the operation that the next step runs, on a machine of any widths (log entry
13). The clock port of every reachable state holds TS_W bits (`ParserInv`). -/
def Obligations.PlacedWordIsTheNextOperation : Prop :=
  ∀ (s : State) (nbits w : Nat) (i : Instr), s.now < 2 ^ s.params.tsW → decodeTableWord nbits w = some i →
    step (s.withFetchWord nbits w) = exec i { s.withFetchWord nbits w with inputs := s.inputs, upd := false } ∧
    (s.withFetchWord nbits w).inputs.tail = s.inputs ∧ (s.withFetchWord nbits w).now = s.now

/-- With no event pending all nine registers and the transmit stream are held (20_memory.md section 1, 60_exceptions.md
section 4; that a step then lowers the strobe and goes on is the model's choice, log entries 15 and 16). -/
def Obligations.NoEventHoldsEverything : Prop :=
  ∀ s : State, s.inputs = [] → step s = .next { s with upd := false }

/-- 60_exceptions.md R90: the step of every event completes, for every byte value in every state; there is no fault, and
the only refusal is of an event outside the alphabet. -/
def Obligations.EveryStepCompletes : Prop :=
  ∀ s : State,
    (∀ (ev : Event) (rest : List Event), s.inputs = ev :: rest → ev ≠ .reserved → ∃ t, step s = .next t) ∧
    (∀ r : Fault, step s ≠ .fault r) ∧
    (∀ why : Refusal, step s = .refused why → ∃ rest, s.inputs = .reserved :: rest)

/-! ### The frame-synchronisation operations -/

/-- 41_sync.md R72: the whole effect of HDR.MATCH, and when it is selected. -/
def Obligations.HdrMatchStartsAFrame : Prop :=
  (∀ s : State, exec .hdrMatch s =
    .next { s with st := .awaitLength, idx := 0, val := 0, csum := 0x16, tx := s.tx ++ [0x16] }) ∧
  ∀ (s : State) (t : Nat), s.st = .awaitHeader → selectInstr s (.byte 0x16 t) = .ok .hdrMatch

/-- 41_sync.md R73: the whole effect of HDR.PASS, and when it is selected. -/
def Obligations.HdrPassRelays : Prop :=
  (∀ (b : Byte) (s : State), exec (.hdrPass b) s =
    .next { s with st := .awaitHeader, csum := s.csum + b, tx := s.tx ++ [b] }) ∧
  ∀ (s : State) (b : Byte) (t : Nat), s.st = .awaitHeader → b ≠ 0x16 → selectInstr s (.byte b t) = .ok (.hdrPass b)

/-- 41_sync.md R74: the whole effect of LEN.MATCH, and when it is selected. -/
def Obligations.LenMatchRecordsTheLength : Prop :=
  (∀ s : State, exec .lenMatch s =
    .next { s with len := 0x11, st := .awaitCommand, csum := s.csum + 0x11, tx := s.tx ++ [0x11] }) ∧
  ∀ (s : State) (t : Nat), s.st = .awaitLength → selectInstr s (.byte 0x11 t) = .ok .lenMatch

/-- 41_sync.md R75: the whole effect of LEN.ABORT, and when it is selected. -/
def Obligations.LenAbortAbandonsTheFrame : Prop :=
  (∀ (b : Byte) (s : State), exec (.lenAbort b) s =
    .next { s with st := .awaitHeader, csum := s.csum + b, tx := s.tx ++ [b] }) ∧
  ∀ (s : State) (b : Byte) (t : Nat), s.st = .awaitLength → b ≠ 0x11 → selectInstr s (.byte b t) = .ok (.lenAbort b)

/-- 41_sync.md R76: the whole effect of CMD.MATCH, and when it is selected. -/
def Obligations.CmdMatchEntersTheData : Prop :=
  (∀ s : State, exec .cmdMatch s =
    .next { s with cmd := 0x0B, st := .inData, csum := s.csum + 0x0B, tx := s.tx ++ [0x0B] }) ∧
  ∀ (s : State) (t : Nat), s.st = .awaitCommand → selectInstr s (.byte 0x0B t) = .ok .cmdMatch

/-- 41_sync.md R77: the whole effect of CMD.ABORT, and when it is selected. -/
def Obligations.CmdAbortAbandonsTheFrame : Prop :=
  (∀ (b : Byte) (s : State), exec (.cmdAbort b) s =
    .next { s with st := .awaitHeader, csum := s.csum + b, tx := s.tx ++ [b] }) ∧
  ∀ (s : State) (b : Byte) (t : Nat), s.st = .awaitCommand → b ≠ 0x0B → selectInstr s (.byte b t) = .ok (.cmdAbort b)

/-- 41_sync.md R73 corner case (c) and 90_conflicts.md C3: from AwaitHeader, bytes among which there is no 0x16 are
all passed through unchanged and the parser stays; control writes may fall between them, and CTRL is then the last value
written, of one wider than CTRL_W its low CTRL_W bits, the model's choice (log entry 25; queue and strobe: log entries 1
and 15). -/
def Obligations.BytesWithoutHeaderPassThrough : Prop :=
  ∀ (s : State) (cs : List Chunk) (rest : List Event), s.st = .awaitHeader →
    (∀ c ∈ cs, c.byte ≠ 0x16) → s.inputs = stimulus cs ++ rest →
    ∃ u, stepN (stimulus cs).length s = .next u ∧ strobes (stimulus cs).length s = 0 ∧
      u.st = .awaitHeader ∧ u.tx = s.tx ++ cs.map Chunk.byte ∧ u.inputs = rest ∧
      u.csum = s.csum + byteSum (cs.map Chunk.byte) ∧
      u.idx = s.idx ∧ u.val = s.val ∧ u.len = s.len ∧ u.cmd = s.cmd ∧
      u.count = s.count ∧ u.tstamp = s.tstamp ∧ u.ctrl = ctrlAfter s.params s.ctrl cs

/-- 70_reset_and_hazards.md R116 and 40_step.md R71 (inferences the spec marks as derived): a header in the place of the
byte that aborts is not looked at again. -/
def Obligations.AbortingHeaderIsMissed : Prop :=
  (∀ (s : State) (t₀ t₁ t₂ t₃ : Nat) (rest : List Event), s.st = .awaitHeader →
    s.inputs = .byte 0x16 t₀ :: .byte 0x16 t₁ :: .byte 0x11 t₂ :: .byte 0x0B t₃ :: rest →
    ∃ u, stepN 4 s = .next u ∧ u.st = .awaitHeader ∧ u.tx = s.tx ++ [0x16, 0x16, 0x11, 0x0B] ∧
      u.len = s.len ∧ u.cmd = s.cmd ∧ u.count = s.count ∧ u.tstamp = s.tstamp) ∧
  ∀ (s : State) (t₀ t₁ t₂ t₃ t₄ : Nat) (rest : List Event), s.st = .awaitHeader →
    s.inputs = .byte 0x16 t₀ :: .byte 0x11 t₁ :: .byte 0x16 t₂ :: .byte 0x11 t₃ :: .byte 0x0B t₄ :: rest →
    ∃ u, stepN 5 s = .next u ∧ u.st = .awaitHeader ∧ u.tx = s.tx ++ [0x16, 0x11, 0x16, 0x11, 0x0B] ∧
      u.cmd = s.cmd ∧ u.count = s.count ∧ u.tstamp = s.tstamp

/-! ### The data-phase operations -/

/-- 42_data.md R79: the whole effect of DAT.PASS at any position but LEN, and when it is selected (LEN = 17, row 12 of
the map). -/
def Obligations.DatPassRelays : Prop :=
  (∀ (n : Idx) (b : Byte) (s : State), s.idx + 1 ≠ s.len → exec (.datPass n b) s =
    .next { s with idx := s.idx + 1, csum := s.csum + b, tx := s.tx ++ [b] }) ∧
  ∀ (s : State) (b : Byte) (t : Nat), s.st = .inData → s.idx + 1 ≠ 3 → s.idx + 1 ≠ 4 → s.idx + 1 ≠ 17 →
    selectInstr s (.byte b t) = .ok (.datPass (s.idx + 1) b)

/-- 42_data.md R80: VAL takes the received byte, the transmit stream CTRL[15:8], which is CTRL / 256 in 8 bits (40_step.md
R67), when CTRL is not zero; and when DAT.HI is selected. -/
def Obligations.DatHiTakesTheHighByte : Prop :=
  (∀ (b : Byte) (s : State), s.idx + 1 ≠ s.len →
    let out := if s.ctrl ≠ 0 then BitVec.ofNat 8 (s.ctrl / 256) else b
    exec (.datHi b) s = .next { s with idx := s.idx + 1, val := s.val + b.setWidth 16 * 256
                                       csum := s.csum + out, tx := s.tx ++ [out] }) ∧
  ∀ (s : State) (b : Byte) (t : Nat), s.st = .inData → s.idx = 2 → selectInstr s (.byte b t) = .ok (.datHi b)

/-- 42_data.md R81: VAL takes the received byte, the transmit stream CTRL[7:0], which is CTRL in 8 bits (40_step.md R67),
when CTRL is not zero; and when DAT.LO is selected. -/
def Obligations.DatLoTakesTheLowByte : Prop :=
  (∀ (b : Byte) (s : State), s.idx + 1 ≠ s.len →
    let out := if s.ctrl ≠ 0 then BitVec.ofNat 8 s.ctrl else b
    exec (.datLo b) s = .next { s with idx := s.idx + 1, val := s.val + b.setWidth 16
                                       csum := s.csum + out, tx := s.tx ++ [out] }) ∧
  ∀ (s : State) (b : Byte) (t : Nat), s.st = .inData → s.idx = 3 → selectInstr s (.byte b t) = .ok (.datLo b)

/-- 42_data.md R82: commit (if CMD is 0x0B), AwaitHeader, the trailer in the received byte's place, CSUM = 0; and when
DAT.END is selected. -/
def Obligations.DatEndClosesTheFrame : Prop :=
  (∀ (b : Byte) (s : State), s.idx + 1 = s.len →
    exec (.datEnd b) s = .next { s with idx := s.idx + 1, st := .awaitHeader
                                        count := if s.cmd = 0x0B then s.val else s.count
                                        tstamp := if s.cmd = 0x0B then s.now else s.tstamp
                                        upd := if s.cmd = 0x0B then true else s.upd
                                        csum := 0, tx := s.tx ++ [~~~s.csum + 1] }) ∧
  ∀ (s : State) (b : Byte) (t : Nat), s.st = .inData → s.idx = 16 → selectInstr s (.byte b t) = .ok (.datEnd b)

/-- 42_data.md section 1: for any register contents an InData step is the complete update R78, line by line; the order
of coinciding tests is decision D8 of the spec (log entry 10), `now` is the TS_W bits of the reading (log entry 25).
The last clauses say which operation is the update for which index, LEN = 3 and LEN = 4 included. -/
def Obligations.InDataStepIsTheCompleteUpdate : Prop :=
  (∀ (s : State) (b : Byte) (t : Nat) (rest : List Event), s.st = .inData → s.inputs = .byte b t :: rest →
    step s = .next (completeUpdate b { s with inputs := rest, now := t % 2 ^ s.params.tsW, upd := false })) ∧
  (∀ (b : Byte) (s : State), s.idx + 1 = 3 → exec (.datHi b) s = .next (completeUpdate b s)) ∧
  (∀ (b : Byte) (s : State), s.idx + 1 = 4 → exec (.datLo b) s = .next (completeUpdate b s)) ∧
  ∀ (n : Idx) (b : Byte) (s : State), s.idx + 1 ≠ 3 → s.idx + 1 ≠ 4 →
    exec (.datEnd b) s = .next (completeUpdate b s) ∧ exec (.datPass n b) s = .next (completeUpdate b s)

/-- 42_data.md R83: BAD.STATE relays the byte and returns to AwaitHeader (its place in the model is decision D13 of the
spec: no key selects it; log entry 14). -/
def Obligations.BadStateReturnsToAwaitHeader : Prop :=
  (∀ (b : Byte) (s : State), execBadState b s =
    .next { s with st := .awaitHeader, csum := s.csum + b, tx := s.tx ++ [b] }) ∧
  ∀ c : StCode, ∃ q : ParserState, stCode q = c ∧ stOfCode c = q

/-- 30_encoding.md R48: after positions 3 and 4 the reading is the two received bytes, big-endian, whatever CTRL is. -/
def Obligations.ReadingIsBigEndian : Prop :=
  ∀ (s : State) (b3 b4 : Byte) (t₃ t₄ : Nat) (rest : List Event),
    s.st = .inData → s.idx = 2 → s.val = 0 → s.len = 17 → s.inputs = .byte b3 t₃ :: .byte b4 t₄ :: rest →
    ∃ u, stepN 2 s = .next u ∧ u.idx = 4 ∧ u.val = b3 ++ b4 ∧ u.val.toNat = b3.toNat * 256 + b4.toNat ∧
      u.val.extractLsb' 8 8 = b3 ∧ u.val.extractLsb' 0 8 = b4

/-! ### What every byte step does -/

/-- 40_step.md section 3, the state graph R70: where each event takes ST, from every state. -/
def Obligations.StateGraphIsComplete : Prop :=
  ∀ s : State,
    (∀ (b : Byte) (t : Nat) (rest : List Event), s.inputs = .byte b t :: rest →
      ∃ u, step s = .next u ∧ u.st =
        match s.st with
        | .awaitHeader => if b = 0x16 then .awaitLength else .awaitHeader
        | .awaitLength => if b = 0x11 then .awaitCommand else .awaitHeader
        | .awaitCommand => if b = 0x0B then .inData else .awaitHeader
        | .inData => if s.idx + 1 = s.len then .awaitHeader else .inData) ∧
    (∀ (w : Nat) (rest : List Event), s.inputs = .ctrlw w :: rest → ∃ u, step s = .next u ∧ u.st = s.st) ∧
    (∀ rest : List Event, s.inputs = .reset :: rest → ∃ u, step s = .next u ∧ u.st = .awaitHeader)

/-- 40_step.md R61 and R63: every byte step transmits exactly one byte, which is the received byte unless DAT.HI or
DAT.LO replaces it (CTRL not zero) or DAT.END does. -/
def Obligations.OutgoingByteOfEveryStep : Prop :=
  ∀ (s : State) (b : Byte) (t : Nat) (rest : List Event), s.inputs = .byte b t :: rest →
    ∃ u, step s = .next u ∧
      (s.st ≠ .inData → u.tx = s.tx ++ [b]) ∧
      (s.st = .inData → s.idx + 1 = s.len → u.tx = s.tx ++ [~~~s.csum + 1]) ∧
      (s.st = .inData → s.idx + 1 ≠ s.len → s.idx + 1 = 3 → s.ctrl ≠ 0 →
        u.tx = s.tx ++ [BitVec.ofNat 8 (s.ctrl / 256)]) ∧
      (s.st = .inData → s.idx + 1 ≠ s.len → s.idx + 1 = 4 → s.ctrl ≠ 0 →
        u.tx = s.tx ++ [BitVec.ofNat 8 s.ctrl]) ∧
      (s.st = .inData → s.idx + 1 ≠ s.len → s.idx + 1 ≠ 3 → s.idx + 1 ≠ 4 → u.tx = s.tx ++ [b]) ∧
      (s.st = .inData → s.idx + 1 ≠ s.len → s.ctrl = 0 → u.tx = s.tx ++ [b])

/-- 40_step.md R62: the outgoing byte is added to the checksum in every state, after the operation's own writes; its
consequences (a), (b) and (c). -/
def Obligations.ChecksumTakesTheOutgoingByte : Prop :=
  ∀ (s : State) (b : Byte) (t : Nat) (rest : List Event), s.inputs = .byte b t :: rest →
    ∃ (u : State) (out : Byte), step s = .next u ∧ u.tx = s.tx ++ [out] ∧
      u.csum = (if s.st = .awaitHeader ∧ b = 0x16 then 0 else s.csum) + out ∧
      (s.st = .awaitHeader → b = 0x16 → u.csum = 0x16) ∧
      (s.st = .awaitHeader → b ≠ 0x16 → u.csum = s.csum + b) ∧
      (s.st = .inData → s.idx + 1 = s.len → u.csum = 0)

/-- 20_memory.md section 1: after any run the transmit stream has grown by one byte for each byte event taken, none
inserted and none dropped, and the events are taken in order, each once (the transmit side always accepts: decision
D10 of the spec, log entry 3). -/
def Obligations.OneByteOutPerByteIn : Prop :=
  ∀ (n : Nat) (s u : State), stepN n s = .next u →
    u.inputs = s.inputs.drop n ∧
    ∃ outs : List Byte, u.tx = s.tx ++ outs ∧ outs.length = ((s.inputs.take n).filter (fun ev => evCode ev = 0)).length

/-- What each operation leaves alone, from the "Writes:" lines of 41_sync.md, 42_data.md, 43_control_sensor.md and
70_reset_and_hazards.md: every register that is not listed, the pending events, the clock port, the widths; and the
transmit stream but for the one byte that a byte operation appends; the strobe is raised by DAT.END alone. -/
def Obligations.OperationsWriteOnlyTheListedRegisters : Prop :=
  ∀ (i : Instr) (s t : State), ruleApplies i s → exec i s = .next t →
    (∀ r : Reg, r ∉ writes i → sameReg r s t) ∧
    t.inputs = s.inputs ∧ t.now = s.now ∧ t.params = s.params ∧
    (i.isByteOp = true → ∃ out : Byte, t.tx = s.tx ++ [out]) ∧
    (i.isByteOp = false → t.tx = s.tx) ∧
    ((∀ b, i ≠ .datEnd b) → t.upd = s.upd)

/-- 60_exceptions.md R99: the parser (a BYTE event) writes all registers but CTRL, the control writer (CTRLW) CTRL
alone, RESET all (what they hold after it does not depend on what they held); with no event nothing is written. -/
def Obligations.RegistersAreWrittenByTheirOwners : Prop :=
  ∀ (s u : State), step s = .next u →
    (∀ (b : Byte) (t : Nat) (rest : List Event), s.inputs = .byte b t :: rest → u.ctrl = s.ctrl) ∧
    (∀ (w : Nat) (rest : List Event), s.inputs = .ctrlw w :: rest →
      (w < 2 ^ s.params.ctrlW → u.ctrl = w) ∧ ∀ r : Reg, r ≠ .ctrl → sameReg r s u) ∧
    (∀ rest : List Event, s.inputs = .reset :: rest →
      ∀ (s' u' : State) (rest' : List Event), s'.inputs = .reset :: rest' → step s' = .next u' →
        ∀ r : Reg, sameReg r u u') ∧
    (s.inputs = [] → ∀ r : Reg, sameReg r s u)

/-- 00_scope.md R9: the byte step is a function of the parser's registers, CTRL, `now` and the byte; COUNT, TSTAMP, what
was sent before and what is pending have no influence on the parser, the byte sent or the optional update. -/
def Obligations.ByteStepIsPure : Prop :=
  ∀ (s s' : State) (b : Byte) (t : Nat) (rest rest' : List Event),
    s.inputs = .byte b t :: rest → s'.inputs = .byte b t :: rest' →
    s.st = s'.st → s.idx = s'.idx → s.val = s'.val → s.csum = s'.csum → s.len = s'.len → s.cmd = s'.cmd →
    s.ctrl = s'.ctrl → s.params = s'.params →
    ∃ (u u' : State) (out : Byte), step s = .next u ∧ step s' = .next u' ∧
      u.st = u'.st ∧ u.idx = u'.idx ∧ u.val = u'.val ∧ u.csum = u'.csum ∧ u.len = u'.len ∧ u.cmd = u'.cmd ∧
      u.tx = s.tx ++ [out] ∧ u'.tx = s'.tx ++ [out] ∧ u.upd = u'.upd ∧
      (u.upd = true → u.count = u'.count ∧ u.tstamp = u'.tstamp) ∧
      (u.upd = false → u.count = s.count ∧ u.tstamp = s.tstamp ∧ u'.count = s'.count ∧ u'.tstamp = s'.tstamp)

/-! ### Arithmetic -/

/-- 40_step.md R69, with its corner cases. -/
def Obligations.TrailerIsTheNegation : Prop :=
  (∀ c : Byte, (trailerOf c).toNat = (256 - c.toNat) % 256 ∧ trailerOf c = 0 - c ∧ c + trailerOf c = 0) ∧
  trailerOf 0x00 = 0x00 ∧ trailerOf 0x01 = 0xFF ∧ trailerOf 0x80 = 0x80 ∧ trailerOf 0xFF = 0x01

/-- 40_step.md R67: division and remainder by 256, which are the slices CTRL[15:8] and CTRL[7:0] of a register of any
width from 16 bits up, the test for zero over the full width, and the rule's examples. -/
def Obligations.OverrideBytesAreQuotientAndRemainder : Prop :=
  (∀ c : Nat, (ctrlHi c).toNat = c / 256 % 256 ∧ (ctrlLo c).toNat = c % 256 ∧ (overrideOn c = true ↔ 0 < c)) ∧
  (∀ w c : Nat, 16 ≤ w → c < 2 ^ w →
    (BitVec.ofNat w c).extractLsb' 8 8 = ctrlHi c ∧ (BitVec.ofNat w c).extractLsb' 0 8 = ctrlLo c ∧
    (overrideOn c = true ↔ BitVec.ofNat w c ≠ 0)) ∧
  (ctrlHi 150 = 0x00 ∧ ctrlLo 150 = 0x96) ∧ (ctrlHi 1000 = 0x03 ∧ ctrlLo 1000 = 0xE8) ∧
  (ctrlHi 65536 = 0x00 ∧ ctrlLo 65536 = 0x00 ∧ overrideOn 65536 = true) ∧ (ctrlHi 256 = 0x01 ∧ ctrlLo 256 = 0x00)

/-! ### The control value and the sensor reading -/

/-- 43_control_sensor.md R87: CTRL and nothing else, in any parser state. The value has CTRL_W bits; of a wider one, which
R87 leaves to the writer, the model keeps the low CTRL_W bits (log entry 25). -/
def Obligations.CtrlWriteReplacesCtrl : Prop :=
  (∀ (w : Nat) (s : State), exec (.ctrlWrite w) s = .next { s with ctrl := w % 2 ^ s.params.ctrlW }) ∧
  (∀ (w : Nat) (s : State), (Instr.ctrlWrite w).wellFormed s.params = true →
    exec (.ctrlWrite w) s = .next { s with ctrl := w }) ∧
  ∀ (s : State) (w : Nat) (rest : List Event), s.inputs = .ctrlw w :: rest →
    step s = .next { s with ctrl := w % 2 ^ s.params.ctrlW, inputs := rest, upd := false }

/-- 43_control_sensor.md R86: a control write (of a value of CTRL_W bits, R87) sets CTRL, and the value then stands
over any run in which no control write and no reset falls, whatever bytes and frames pass; it is what every recognised
frame takes at data positions 3 and 4. -/
def Obligations.CtrlPersistsUntilOverwritten : Prop :=
  ∀ (s s₁ : State) (w : Nat) (rest : List Event), w < 2 ^ s.params.ctrlW → s.inputs = .ctrlw w :: rest →
    step s = .next s₁ →
    s₁.ctrl = w ∧
    ∀ (n : Nat) (u : State), stepN n s₁ = .next u → (∀ ev ∈ rest.take n, evCode ev ≠ 1 ∧ evCode ev ≠ 2) →
      u.ctrl = w ∧
      ∀ (b : Byte) (t : Nat) (rest' : List Event), u.inputs = .byte b t :: rest' → u.st = .inData →
        u.idx + 1 ≠ u.len → w ≠ 0 →
        ∃ v, step u = .next v ∧
          (u.idx + 1 = 3 → v.tx = u.tx ++ [BitVec.ofNat 8 (w / 256)]) ∧
          (u.idx + 1 = 4 → v.tx = u.tx ++ [BitVec.ofNat 8 w])

/-- 43_control_sensor.md R85: two states that differ in CTRL alone step alike in everything but the byte sent and the
checksum, and in these too except at data positions 3 and 4; and CTRL = 0 passes the byte there. -/
def Obligations.CtrlActsAtPositionsThreeAndFourOnly : Prop :=
  ∀ (s : State) (c : Nat) (b : Byte) (t : Nat) (rest : List Event), s.inputs = .byte b t :: rest →
    ∃ u u' : State, step s = .next u ∧ step { s with ctrl := c } = .next u' ∧
      u' = { u with ctrl := c, csum := u'.csum, tx := u'.tx } ∧
      (¬ (s.st = .inData ∧ (s.idx + 1 = 3 ∨ s.idx + 1 = 4)) → u'.csum = u.csum ∧ u'.tx = u.tx) ∧
      (s.st = .inData → s.idx + 1 ≠ s.len → s.idx + 1 = 3 → s.ctrl = 0 → u.tx = s.tx ++ [b]) ∧
      (s.st = .inData → s.idx + 1 ≠ s.len → s.idx + 1 = 4 → s.ctrl = 0 → u.tx = s.tx ++ [b])

/-- 43_control_sensor.md section 2: the strobe is high after a step exactly if the step ended a frame whose command is
0x0B; the reading is then VAL and the step's `now`, TS_W bits (log entry 25), both at once; otherwise, RESET apart, the
reading is held (the strobe is an addition of the spec, decision D21, log entry 15). -/
def Obligations.CommitIsOneWriteWithOneStrobe : Prop :=
  ∀ (s u : State), step s = .next u →
    (u.upd = true ↔ s.st = .inData ∧ s.idx + 1 = s.len ∧ s.cmd = 0x0B ∧
      ∃ (b : Byte) (t : Nat) (rest : List Event), s.inputs = .byte b t :: rest) ∧
    (u.upd = true → u.count = u.val ∧
      ∃ (b : Byte) (t : Nat) (rest : List Event), s.inputs = .byte b t :: rest ∧ u.tstamp = t % 2 ^ s.params.tsW) ∧
    (u.upd = false → (∀ rest : List Event, s.inputs ≠ .reset :: rest) → u.count = s.count ∧ u.tstamp = s.tstamp)

/-- 43_control_sensor.md section 2: a reading is fresh while its age, modulo 2^TS_W, is strictly below the interval (the
width of the clock, any, and the modular age are decision D6 of the spec, log entries 7 and 8). -/
def Obligations.FreshnessIsAStrictModularAge : Prop :=
  ∀ (interval tNow : Nat) (s : State),
    (s.tstamp < 2 ^ s.params.tsW →
      (freshWithin interval tNow s = true ↔
        (tNow + 2 ^ s.params.tsW - s.tstamp) % 2 ^ s.params.tsW < interval)) ∧
    freshWithin (ageOf s.params tNow s.tstamp) tNow s = false ∧
    freshWithin (ageOf s.params tNow s.tstamp + 1) tNow s = true

/-! ### Reset -/

/-- 70_reset_and_hazards.md section 1: all nine registers, and nothing of the streams. ST = AwaitHeader is the source's;
the zeros are decision D7 of the spec (log entries 4 and 5). -/
def Obligations.ResetWritesAllNineRegisters : Prop :=
  (∀ s : State, exec .reset s =
    .next { s with st := .awaitHeader, idx := 0, val := 0, csum := 0, len := 0, cmd := 0, ctrl := 0, count := 0
                   tstamp := 0 }) ∧
  ∀ (s : State) (rest : List Event), s.inputs = .reset :: rest →
    step s = .next { s with st := .awaitHeader, idx := 0, val := 0, csum := 0, len := 0, cmd := 0, ctrl := 0
                            count := 0, tstamp := 0, inputs := rest, upd := false }

/-- 70_reset_and_hazards.md R109: the first byte after reset, at power-up or after a RESET event, is classified by
HDR.MATCH or HDR.PASS. -/
def Obligations.FirstByteAfterResetIsAHeaderTest : Prop :=
  (∀ p : Params, (State.resetWith p).st = .awaitHeader ∧
    ∀ (b : Byte) (t : Nat), selectInstr (State.resetWith p) (.byte b t) =
      .ok (if b = 0x16 then .hdrMatch else .hdrPass b)) ∧
  ∀ (s : State) (rest : List Event), s.inputs = .reset :: rest →
    ∃ u, step s = .next u ∧ u.st = .awaitHeader ∧
      ∀ (b : Byte) (t : Nat), selectInstr u (.byte b t) = .ok (if b = 0x16 then .hdrMatch else .hdrPass b)

/-- 70_reset_and_hazards.md section 3, R121: nothing tells the reset reading from a real one; with the reset values of
decision D7 of the spec (log entry 5) it counts as fresh while the clock is below the interval, whatever the widths. -/
def Obligations.ResetReadingCountsAsFresh : Prop :=
  ∀ (p : Params), reading (State.resetWith p) = (0, 0) ∧
    ∀ (interval tNow : Nat), tNow < 2 ^ p.tsW →
      (freshWithin interval tNow (State.resetWith p) = true ↔ tNow < interval)

/-! ### Invariants -/

/-- 10_state.md section 8: every step, whatever event it takes, keeps the invariant of the reachable states. That CTRL,
TSTAMP and `now` stay within their widths when an event carries a wider number is the model's choice (log entry 25). -/
def Obligations.StepKeepsParserInv : Prop :=
  ∀ s t : State, ParserInv s → step s = .next t → ParserInv t

/-- The invariant holds right after reset, on a machine of any legal widths; the defaults are legal, and with them
`State.reset` is the machine after reset. -/
def Obligations.ResetHasParserInv : Prop :=
  (∀ p : Params, p.legal = true → ParserInv (State.resetWith p)) ∧
  Config.defaults.legal = true ∧ State.reset = State.resetWith Config.defaults

/-- 00_scope.md section 4: the widths are parameters of the machine, no registers: no operation, step or run changes them
(that State carries them is the model's own form, log entry 24). -/
def Obligations.WidthsAreFixed : Prop :=
  (∀ (i : Instr) (s t : State), exec i s = .next t → t.params = s.params) ∧
  ∀ (n : Nat) (s u : State), stepN n s = .next u → u.params = s.params

/-- 10_state.md section 8, last row: what a DAT.END step leaves, from any state that meets the invariant; every such step
commits, with the TS_W bits of the clock reading (log entry 25). -/
def Obligations.FrameEndLeavesTheClosedState : Prop :=
  ∀ (s : State) (b : Byte) (t : Nat) (rest : List Event), ParserInv s → s.st = .inData → s.idx + 1 = s.len →
    s.inputs = .byte b t :: rest →
    ∃ u, step s = .next u ∧ u.st = .awaitHeader ∧ u.idx = 17 ∧ u.csum = 0 ∧ u.count = u.val ∧ u.val = s.val ∧
      u.tstamp = t % 2 ^ s.params.tsW ∧ u.len = 0x11 ∧ u.cmd = 0x0B ∧ u.upd = true

/-! ### Whole frames -/

/-- 42_data.md section 3, R84 (an inference the spec marks as derived): the effect of a whole frame, with control writes
anywhere among its bytes. `c3` and `c4` are what CTRL holds at the steps for positions 3 and 4; `c / 256` and `c` in 8
bits are CTRL[15:8] and CTRL[7:0] (40_step.md R67); values wider than CTRL_W or TS_W: log entry 25. -/
def Obligations.WholeFrameEffect : Prop :=
  ∀ (s : State) (cs : List Chunk) (rest : List Event) (d1 d2 d3 d4 x : Byte) (ds : List Byte) (tEnd : Nat),
    s.st = .awaitHeader → ds.length = 12 →
    cs.map Chunk.byte = [0x16, 0x11, 0x0B, d1, d2, d3, d4] ++ ds ++ [x] →
    cs.getLast?.map Chunk.time = some tEnd →
    s.inputs = stimulus cs ++ rest →
    let c3 := ctrlAfter s.params s.ctrl (cs.take 6)
    let c4 := ctrlAfter s.params s.ctrl (cs.take 7)
    let o3 := if c3 = 0 then d3 else BitVec.ofNat 8 (c3 / 256)
    let o4 := if c4 = 0 then d4 else BitVec.ofNat 8 c4
    let trailer := 0 - (0x32 + d1 + d2 + o3 + o4 + byteSum ds)
    stepN (stimulus cs).length s =
      .next { params := s.params, st := .awaitHeader, idx := 17, val := d3 ++ d4, csum := 0, len := 0x11, cmd := 0x0B
              ctrl := ctrlAfter s.params s.ctrl cs, count := d3 ++ d4, tstamp := tEnd % 2 ^ s.params.tsW
              tx := s.tx ++ [0x16, 0x11, 0x0B, d1, d2, o3, o4] ++ ds ++ [trailer]
              upd := true, inputs := rest, now := tEnd % 2 ^ s.params.tsW } ∧
    strobes (stimulus cs).length s = 1

/-- 10_state.md section 8, the InData rows of R24 (an inference the spec marks as derived): where a frame stands after
its head and `d.length` data bytes, with control writes anywhere among them. `c3`, `c4`, the bytes sent at positions 3 and
4 and CTRL come from the values written, of one wider than CTRL_W from its low CTRL_W bits, the model's choice (log entry
25; queue and strobe: log entries 1 and 15). -/
def Obligations.FrameInProgress : Prop :=
  ∀ (s : State) (cs : List Chunk) (rest : List Event) (d : List Byte),
    s.st = .awaitHeader → d.length ≤ 16 →
    cs.map Chunk.byte = [0x16, 0x11, 0x0B] ++ d → s.inputs = stimulus cs ++ rest →
    let c3 := ctrlAfter s.params s.ctrl (cs.take 6)
    let c4 := ctrlAfter s.params s.ctrl (cs.take 7)
    let outs := d.mapIdx (fun j b =>
      if j = 2 ∧ c3 ≠ 0 then BitVec.ofNat 8 (c3 / 256) else if j = 3 ∧ c4 ≠ 0 then BitVec.ofNat 8 c4 else b)
    ∃ u, stepN (stimulus cs).length s = .next u ∧ strobes (stimulus cs).length s = 0 ∧
      u.st = .inData ∧ u.idx.toNat = d.length ∧ u.len = 0x11 ∧ u.cmd = 0x0B ∧
      u.val = d.getD 2 0 ++ d.getD 3 0 ∧ u.csum = 0x32 + byteSum outs ∧
      u.tx = s.tx ++ [0x16, 0x11, 0x0B] ++ outs ∧ u.count = s.count ∧ u.tstamp = s.tstamp ∧
      u.ctrl = ctrlAfter s.params s.ctrl cs ∧ u.inputs = rest

/-- 30_encoding.md R50: before the last byte CSUM is the sum of the 19 bytes sent for the frame, the trailer is its
negation, so the 20 bytes that leave sum to zero, whatever came in at position 17 and however CTRL is written. -/
def Obligations.OutgoingFrameSumsToZero : Prop :=
  ∀ (s : State) (cs : List Chunk) (rest : List Event) (d : List Byte) (x : Byte),
    s.st = .awaitHeader → d.length = 16 →
    cs.map Chunk.byte = [0x16, 0x11, 0x0B] ++ d ++ [x] → s.inputs = stimulus cs ++ rest →
    ∃ (v u : State) (sent : List Byte) (trailer : Byte),
      stepN (stimulus (cs.take 19)).length s = .next v ∧ stepN (stimulus cs).length s = .next u ∧
      v.tx = s.tx ++ sent ∧ u.tx = s.tx ++ sent ++ [trailer] ∧
      sent.length = 19 ∧ sent.take 3 = [0x16, 0x11, 0x0B] ∧
      v.csum = byteSum sent ∧ trailer = ~~~v.csum + 1 ∧ byteSum (sent ++ [trailer]) = 0

/-- 42_data.md R82 corner case (b) with 30_encoding.md section 6: a frame whose own trailer is right, with CTRL = 0, is
relayed unchanged; FRAME's bytes sum to zero (the FRAME shorthand is the spec's notation, decision D19; the clock's
TS_W bits: log entry 25). -/
def Obligations.ValidFrameIsRelayedUnchanged : Prop :=
  ∀ (s : State) (d : List Byte) (t : Nat) (rest : List Event),
    s.st = .awaitHeader → s.ctrl = 0 → d.length = 16 →
    s.inputs = (frame d).map (fun b => .byte b t) ++ rest →
    byteSum (frame d) = 0 ∧
    ∃ u, stepN 20 s = .next u ∧ u.tx = s.tx ++ frame d ∧ u.st = .awaitHeader ∧
      u.count = d.getD 2 0 ++ d.getD 3 0 ∧ u.tstamp = t % 2 ^ s.params.tsW

/-- 40_step.md section 3 and 70_reset_and_hazards.md section 3: InData is left by counting to 17 and by no byte value; the
frame completes with the byte that makes 17, with one commit, however control writes fall. -/
def Obligations.FrameEndsByCountingOnly : Prop :=
  ∀ (s : State) (cs : List Chunk) (rest : List Event), ParserInv s → s.st = .inData →
    s.inputs = stimulus cs ++ rest →
    (cs.length + s.idx.toNat < 17 →
      ∃ u, stepN (stimulus cs).length s = .next u ∧ u.st = .inData ∧
        u.idx.toNat = s.idx.toNat + cs.length ∧ strobes (stimulus cs).length s = 0 ∧
        u.count = s.count ∧ u.tstamp = s.tstamp) ∧
    (cs.length + s.idx.toNat = 17 →
      ∃ u, stepN (stimulus cs).length s = .next u ∧ u.st = .awaitHeader ∧ u.idx = 17 ∧
        strobes (stimulus cs).length s = 1 ∧ u.count = u.val)

/-! ### What cannot be seen -/

/-- 20_memory.md section 6, R40 (b): nothing but TSTAMP depends on the clock. Two states whose pending events and clocks
differ in readings alone run alike but for the clock port, TSTAMP and the readings still pending. -/
def Obligations.ClockReachesTheTimestampOnly : Prop :=
  ∀ (n : Nat) (s s' u : State),
    s' = { s with now := s'.now, tstamp := s'.tstamp, inputs := s'.inputs } →
    List.Forall₂ sameButReading s.inputs s'.inputs →
    stepN n s = .next u →
    ∃ u', stepN n s' = .next u' ∧ u' = { u with now := u'.now, tstamp := u'.tstamp, inputs := u'.inputs } ∧
      List.Forall₂ sameButReading u.inputs u'.inputs

/-- 20_memory.md section 6, R40: a run over the first events of the queue does not depend on what comes after them. -/
def Obligations.LaterEventsHaveNoInfluence : Prop :=
  ∀ (s u : State) (evs rest rest' : List Event), s.inputs = evs ++ rest → stepN evs.length s = .next u →
    u.inputs = rest ∧ stepN evs.length { s with inputs := evs ++ rest' } = .next { u with inputs := rest' }

/-! ### Ports -/

/-- 30_encoding.md section 7: RESET alone; otherwise the byte step, which sees the old CTRL, and then the control write;
`tx_valid` exactly with an accepted byte, `upd_valid` with a commit (the order is decision D2 of the spec, log entry
17; a wider control value: log entry 25). -/
def Obligations.CoincidentPortsAreOrdered : Prop :=
  ∀ (p : PortsIn) (s : State),
    (p.rst = true → boundary p s =
      .next ({ s with st := .awaitHeader, idx := 0, val := 0, csum := 0, len := 0, cmd := 0, ctrl := 0, count := 0
                      tstamp := 0, upd := false },
             { tx := none, count := 0, tstamp := 0, updValid := false })) ∧
    (p.rst = false → p.rxValid = false → boundary p s =
      .next ({ s with ctrl := if p.ctrlWe then p.ctrlWdata % 2 ^ s.params.ctrlW else s.ctrl, upd := false },
             { tx := none, count := s.count, tstamp := s.tstamp, updValid := false })) ∧
    (p.rst = false → p.rxValid = true →
      ∃ (u : State) (out : Byte), step { s with inputs := [.byte p.rxByte p.now] } = .next u ∧
        u.tx = s.tx ++ [out] ∧
        boundary p s =
          .next ({ u with ctrl := if p.ctrlWe then p.ctrlWdata % 2 ^ s.params.ctrlW else u.ctrl, inputs := s.inputs
                          upd := if p.ctrlWe then false else u.upd },
                 { tx := some out, count := u.count, tstamp := u.tstamp, updValid := u.upd }))
end

