-- ==== Sys2Proof/Laws/Decode.lean ====
section
/-! SUPPORT. The key as its four fields, and each row's test as conditions on the fields. -/

namespace Sys2Proof

/-! ### The positions are apart (10_state.md R24) -/

@[simp] theorem posLo_ne_posHi : Config.posLo ≠ Config.posHi := by decide

@[simp] theorem length_ne_posHi : Config.length ≠ Config.posHi := by decide

@[simp] theorem length_ne_posLo : Config.length ≠ Config.posLo := by decide

/-! ### Fields -/

/-- Which bit of which field a bit of the key is (30_encoding.md R51). -/
theorem mkKey_getLsbD (e : EventKind) (f : StCode) (n : Idx) (b : Byte) (i : Nat) :
    (mkKey e f n b).getLsbD i =
      if i < 8 then b.getLsbD i else if i < 16 then n.getLsbD (i - 8)
      else if i < 18 then f.getLsbD (i - 16) else e.getLsbD (i - 18) := by
  have h : (mkKey e f n b).getLsbD i = (e ++ f ++ n ++ b : BitVec (2 + 2 + 8 + 8)).getLsbD i := rfl
  rw [h, BitVec.getLsbD_append, BitVec.getLsbD_append, BitVec.getLsbD_append]
  simp only [Config.byteW, Config.idxW, Config.stW]
  by_cases h₁ : i < 8
  · simp [h₁]
  · by_cases h₂ : i < 16
    · simp [h₁, h₂, show i - 8 < 8 by omega]
    · by_cases h₃ : i < 18
      · simp [h₁, h₂, h₃, show ¬ i - 8 < 8 by omega, show i - 16 < 2 by omega, Nat.sub_sub]
      · simp [h₁, h₂, h₃, show ¬ i - 8 < 8 by omega, show ¬ i - 16 < 2 by omega, Nat.sub_sub]

@[simp] theorem keyEv_mkKey (e : EventKind) (f : StCode) (n : Idx) (b : Byte) : keyEv (mkKey e f n b) = e := by
  apply BitVec.eq_of_getLsbD_eq
  intro i (hi : i < 2)
  simp [keyEv, mkKey_getLsbD, hi, show ¬ 18 + i < 8 by omega, show ¬ 18 + i < 16 by omega]

@[simp] theorem keyStf_mkKey (e : EventKind) (f : StCode) (n : Idx) (b : Byte) : keyStf (mkKey e f n b) = f := by
  apply BitVec.eq_of_getLsbD_eq
  intro i (hi : i < 2)
  simp [keyStf, mkKey_getLsbD, hi, show ¬ 16 + i < 8 by omega, show 16 + i < 18 by omega]

@[simp] theorem keyN_mkKey (e : EventKind) (f : StCode) (n : Idx) (b : Byte) : keyN (mkKey e f n b) = n := by
  apply BitVec.eq_of_getLsbD_eq
  intro i (hi : i < 8)
  simp [keyN, mkKey_getLsbD, hi, show 8 + i < 16 by omega]

@[simp] theorem keyB_mkKey (e : EventKind) (f : StCode) (n : Idx) (b : Byte) : keyB (mkKey e f n b) = b := by
  apply BitVec.eq_of_getLsbD_eq
  intro i (hi : i < 8)
  simp [keyB, mkKey_getLsbD, hi]

/-- A key is its fields (30_encoding.md R51). -/
theorem mkKey_fields (k : Key) : mkKey (keyEv k) (keyStf k) (keyN k) (keyB k) = k := by
  apply BitVec.eq_of_getLsbD_eq
  intro i hi
  rw [mkKey_getLsbD]
  split
  · simp [keyB, *]
  · split
    · simp [keyN, show i - 8 < 8 by omega, show 8 + (i - 8) = i by omega]
    · split
      · simp [keyStf, show i - 16 < 2 by omega, show 16 + (i - 16) = i by omega]
      · simp [keyEv, show i - 18 < 2 by omega, show 18 + (i - 18) = i by omega]

/-- Keys are equal when their fields are. -/
theorem mkKey_inj {e e' : EventKind} {f f' : StCode} {n n' : Idx} {b b' : Byte} :
    mkKey e f n b = mkKey e' f' n' b' ↔ e = e' ∧ f = f' ∧ n = n' ∧ b = b' := by
  constructor
  · intro h
    have h₁ := congrArg keyEv h
    have h₂ := congrArg keyStf h
    have h₃ := congrArg keyN h
    have h₄ := congrArg keyB h
    simp only [keyEv_mkKey, keyStf_mkKey, keyN_mkKey, keyB_mkKey] at h₁ h₂ h₃ h₄
    exact ⟨h₁, h₂, h₃, h₄⟩
  · rintro ⟨rfl, rfl, rfl, rfl⟩
    rfl

/-- A mask acts field by field. -/
theorem mkKey_and (e : EventKind) (f : StCode) (n : Idx) (b : Byte) (e' : EventKind) (f' : StCode) (n' : Idx)
    (b' : Byte) :
    mkKey e f n b &&& mkKey e' f' n' b' = mkKey (e &&& e') (f &&& f') (n &&& n') (b &&& b') := by
  apply BitVec.eq_of_getLsbD_eq
  intro i hi
  rw [BitVec.getLsbD_and, mkKey_getLsbD, mkKey_getLsbD, mkKey_getLsbD]
  split
  · rw [BitVec.getLsbD_and]
  · split
    · rw [BitVec.getLsbD_and]
    · split <;> rw [BitVec.getLsbD_and]

theorem and_ones_two (x : BitVec 2) : x &&& 3#2 = x := BitVec.and_allOnes

theorem and_ones_byte (x : Byte) : x &&& 255#8 = x := BitVec.and_allOnes

/-! ### The rows of 30_encoding.md R52, column "condition in words" -/

/-- Each row's test, on the fields of a key. -/
theorem rowHolds_mkKey (e : EventKind) (f : StCode) (n : Idx) (b : Byte) (r : Row) :
    rowHolds (mkKey e f n b) r =
      match r with
      | .reset => decide (e = 2)
      | .ctrlWrite => decide (e = 1)
      | .hdrMatch => decide (e = 0 ∧ f = 0 ∧ b = Config.header)
      | .hdrPass => decide (e = 0 ∧ f = 0)
      | .lenMatch => decide (e = 0 ∧ f = 1 ∧ b = Config.length)
      | .lenAbort => decide (e = 0 ∧ f = 1)
      | .cmdMatch => decide (e = 0 ∧ f = 2 ∧ b = Config.command)
      | .cmdAbort => decide (e = 0 ∧ f = 2)
      | .datHi => decide (e = 0 ∧ f = 3 ∧ n = Config.posHi)
      | .datLo => decide (e = 0 ∧ f = 3 ∧ n = Config.posLo)
      | .datEnd => decide (e = 0 ∧ f = 3 ∧ n = Config.length)
      | .datPass => decide (e = 0 ∧ f = 3) := by
  unfold rowHolds
  rw [Bool.eq_iff_iff, beq_iff_eq]
  cases r <;>
    simp only [rowMask, rowMatch, mkKey_and, mkKey_inj, BitVec.ofNat_eq_ofNat, and_ones_two, and_ones_byte,
      BitVec.and_zero, and_true, true_and, decide_eq_true_eq]

/-- What a decoded key's operation is: the row that was selected. -/
theorem decodeKey_of_selectRow {k : Key} {w : Nat} {r : Row} (h : selectRow k = some r) :
    decodeKey k w = .ok (rowInstr k w r) := by simp [decodeKey, h]

/-! ### Bytes -/

/-- The three bytes of a key give the key back. -/
theorem keyOfBytes_keyBytes (k : Key) :
    keyOfBytes (k.extractLsb' 0 8) (k.extractLsb' 8 8) ((0 : BitVec 4) ++ k.extractLsb' 16 4) = k := by
  apply BitVec.eq_of_getLsbD_eq
  intro i hi
  have h : (keyOfBytes (k.extractLsb' 0 8) (k.extractLsb' 8 8) ((0 : BitVec 4) ++ k.extractLsb' 16 4)).getLsbD i =
      (((0 : BitVec 4) ++ k.extractLsb' 16 4 : BitVec (4 + 4)).extractLsb' 0 4 ++ k.extractLsb' 8 8 ++
        k.extractLsb' 0 8 : BitVec (4 + 8 + 8)).getLsbD i := rfl
  rw [h, BitVec.getLsbD_append, BitVec.getLsbD_append]
  by_cases h₁ : i < 8
  · simp [h₁]
  · by_cases h₂ : i - 8 < 8
    · simp [h₁, h₂, show 8 + (i - 8) = i by omega]
    · have h₃ : ((0 : BitVec 4) ++ k.extractLsb' 16 4).getLsbD (i - 8 - 8) = k.getLsbD i := by
        rw [BitVec.getLsbD_append]
        simp [show i - 8 - 8 < 4 by omega, show 16 + (i - 8 - 8) = i by omega]
      have h₄ : i - 8 - 8 < 4 := by omega
      simp only [h₁, h₂, if_false, BitVec.getLsbD_extractLsb', Nat.zero_add, h₄, decide_true, Bool.true_and]
      exact h₃

@[simp] theorem bytesOfNat_length (len v : Nat) : (bytesOfNat len v).length = len := by
  induction len generalizing v with
  | zero => rfl
  | succ len ih => simp [bytesOfNat, ih]

/-- The bytes of a number give back as much of it as they hold. -/
theorem natOfBytes_bytesOfNat (len v : Nat) : natOfBytes (bytesOfNat len v) = v % 256 ^ len := by
  induction len generalizing v with
  | zero => simp [bytesOfNat, natOfBytes, Nat.mod_one]
  | succ len ih => rw [bytesOfNat, natOfBytes, ih, pow_succ', Nat.mod_mul, BitVec.toNat_ofNat]; rfl

/-- A control value's bytes hold all CTRL_W bits of it. -/
theorem natOfBytes_ctrl {p : Params} {w : Nat} (h : w < 2 ^ p.ctrlW) :
    natOfBytes (bytesOfNat (ctrlLength p) w) = w := by
  rw [natOfBytes_bytesOfNat, show (256 : Nat) = 2 ^ 8 by rfl, ← pow_mul]
  exact Nat.mod_eq_of_lt (h.trans_le (Nat.pow_le_pow_right (by decide) (by unfold ctrlLength; omega)))

end Sys2Proof
end

