-- ==== Sys2Proof/Laws/State.lean ====
section
/-! SUPPORT. One lemma per field per named update, true by rfl, so that no proof unfolds a record update. -/

namespace Sys2Proof.Machine


/-! ### pulseStrobe -/

@[simp] theorem pulseStrobe_params (s : State) : (pulseStrobe s).params = s.params := rfl
@[simp] theorem pulseStrobe_st (s : State) : (pulseStrobe s).st = s.st := rfl
@[simp] theorem pulseStrobe_idx (s : State) : (pulseStrobe s).idx = s.idx := rfl
@[simp] theorem pulseStrobe_val (s : State) : (pulseStrobe s).val = s.val := rfl
@[simp] theorem pulseStrobe_csum (s : State) : (pulseStrobe s).csum = s.csum := rfl
@[simp] theorem pulseStrobe_len (s : State) : (pulseStrobe s).len = s.len := rfl
@[simp] theorem pulseStrobe_cmd (s : State) : (pulseStrobe s).cmd = s.cmd := rfl
@[simp] theorem pulseStrobe_ctrl (s : State) : (pulseStrobe s).ctrl = s.ctrl := rfl
@[simp] theorem pulseStrobe_count (s : State) : (pulseStrobe s).count = s.count := rfl
@[simp] theorem pulseStrobe_tstamp (s : State) : (pulseStrobe s).tstamp = s.tstamp := rfl
@[simp] theorem pulseStrobe_tx (s : State) : (pulseStrobe s).tx = s.tx := rfl
@[simp] theorem pulseStrobe_upd (s : State) : (pulseStrobe s).upd = true := rfl
@[simp] theorem pulseStrobe_inputs (s : State) : (pulseStrobe s).inputs = s.inputs := rfl
@[simp] theorem pulseStrobe_now (s : State) : (pulseStrobe s).now = s.now := rfl

/-! ### lowerStrobe -/

@[simp] theorem lowerStrobe_params (s : State) : (lowerStrobe s).params = s.params := rfl
@[simp] theorem lowerStrobe_st (s : State) : (lowerStrobe s).st = s.st := rfl
@[simp] theorem lowerStrobe_idx (s : State) : (lowerStrobe s).idx = s.idx := rfl
@[simp] theorem lowerStrobe_val (s : State) : (lowerStrobe s).val = s.val := rfl
@[simp] theorem lowerStrobe_csum (s : State) : (lowerStrobe s).csum = s.csum := rfl
@[simp] theorem lowerStrobe_len (s : State) : (lowerStrobe s).len = s.len := rfl
@[simp] theorem lowerStrobe_cmd (s : State) : (lowerStrobe s).cmd = s.cmd := rfl
@[simp] theorem lowerStrobe_ctrl (s : State) : (lowerStrobe s).ctrl = s.ctrl := rfl
@[simp] theorem lowerStrobe_count (s : State) : (lowerStrobe s).count = s.count := rfl
@[simp] theorem lowerStrobe_tstamp (s : State) : (lowerStrobe s).tstamp = s.tstamp := rfl
@[simp] theorem lowerStrobe_tx (s : State) : (lowerStrobe s).tx = s.tx := rfl
@[simp] theorem lowerStrobe_upd (s : State) : (lowerStrobe s).upd = false := rfl
@[simp] theorem lowerStrobe_inputs (s : State) : (lowerStrobe s).inputs = s.inputs := rfl
@[simp] theorem lowerStrobe_now (s : State) : (lowerStrobe s).now = s.now := rfl

/-! ### sendByte -/

@[simp] theorem sendByte_params (out : Byte) (s : State) : (sendByte out s).params = s.params := rfl
@[simp] theorem sendByte_st (out : Byte) (s : State) : (sendByte out s).st = s.st := rfl
@[simp] theorem sendByte_idx (out : Byte) (s : State) : (sendByte out s).idx = s.idx := rfl
@[simp] theorem sendByte_val (out : Byte) (s : State) : (sendByte out s).val = s.val := rfl
@[simp] theorem sendByte_csum (out : Byte) (s : State) : (sendByte out s).csum = s.csum + out := rfl
@[simp] theorem sendByte_len (out : Byte) (s : State) : (sendByte out s).len = s.len := rfl
@[simp] theorem sendByte_cmd (out : Byte) (s : State) : (sendByte out s).cmd = s.cmd := rfl
@[simp] theorem sendByte_ctrl (out : Byte) (s : State) : (sendByte out s).ctrl = s.ctrl := rfl
@[simp] theorem sendByte_count (out : Byte) (s : State) : (sendByte out s).count = s.count := rfl
@[simp] theorem sendByte_tstamp (out : Byte) (s : State) : (sendByte out s).tstamp = s.tstamp := rfl
@[simp] theorem sendByte_tx (out : Byte) (s : State) : (sendByte out s).tx = s.tx ++ [out] := rfl
@[simp] theorem sendByte_upd (out : Byte) (s : State) : (sendByte out s).upd = s.upd := rfl
@[simp] theorem sendByte_inputs (out : Byte) (s : State) : (sendByte out s).inputs = s.inputs := rfl
@[simp] theorem sendByte_now (out : Byte) (s : State) : (sendByte out s).now = s.now := rfl

/-! ### abandonFrame -/

@[simp] theorem abandonFrame_params (s : State) : (abandonFrame s).params = s.params := rfl
@[simp] theorem abandonFrame_st (s : State) : (abandonFrame s).st = .awaitHeader := rfl
@[simp] theorem abandonFrame_idx (s : State) : (abandonFrame s).idx = s.idx := rfl
@[simp] theorem abandonFrame_val (s : State) : (abandonFrame s).val = s.val := rfl
@[simp] theorem abandonFrame_csum (s : State) : (abandonFrame s).csum = s.csum := rfl
@[simp] theorem abandonFrame_len (s : State) : (abandonFrame s).len = s.len := rfl
@[simp] theorem abandonFrame_cmd (s : State) : (abandonFrame s).cmd = s.cmd := rfl
@[simp] theorem abandonFrame_ctrl (s : State) : (abandonFrame s).ctrl = s.ctrl := rfl
@[simp] theorem abandonFrame_count (s : State) : (abandonFrame s).count = s.count := rfl
@[simp] theorem abandonFrame_tstamp (s : State) : (abandonFrame s).tstamp = s.tstamp := rfl
@[simp] theorem abandonFrame_tx (s : State) : (abandonFrame s).tx = s.tx := rfl
@[simp] theorem abandonFrame_upd (s : State) : (abandonFrame s).upd = s.upd := rfl
@[simp] theorem abandonFrame_inputs (s : State) : (abandonFrame s).inputs = s.inputs := rfl
@[simp] theorem abandonFrame_now (s : State) : (abandonFrame s).now = s.now := rfl

/-! ### startFrame -/

@[simp] theorem startFrame_params (s : State) : (startFrame s).params = s.params := rfl
@[simp] theorem startFrame_st (s : State) : (startFrame s).st = .awaitLength := rfl
@[simp] theorem startFrame_idx (s : State) : (startFrame s).idx = 0 := rfl
@[simp] theorem startFrame_val (s : State) : (startFrame s).val = 0 := rfl
@[simp] theorem startFrame_csum (s : State) : (startFrame s).csum = 0 := rfl
@[simp] theorem startFrame_len (s : State) : (startFrame s).len = s.len := rfl
@[simp] theorem startFrame_cmd (s : State) : (startFrame s).cmd = s.cmd := rfl
@[simp] theorem startFrame_ctrl (s : State) : (startFrame s).ctrl = s.ctrl := rfl
@[simp] theorem startFrame_count (s : State) : (startFrame s).count = s.count := rfl
@[simp] theorem startFrame_tstamp (s : State) : (startFrame s).tstamp = s.tstamp := rfl
@[simp] theorem startFrame_tx (s : State) : (startFrame s).tx = s.tx := rfl
@[simp] theorem startFrame_upd (s : State) : (startFrame s).upd = s.upd := rfl
@[simp] theorem startFrame_inputs (s : State) : (startFrame s).inputs = s.inputs := rfl
@[simp] theorem startFrame_now (s : State) : (startFrame s).now = s.now := rfl

/-! ### recordLength -/

@[simp] theorem recordLength_params (b : Byte) (s : State) : (recordLength b s).params = s.params := rfl
@[simp] theorem recordLength_st (b : Byte) (s : State) : (recordLength b s).st = .awaitCommand := rfl
@[simp] theorem recordLength_idx (b : Byte) (s : State) : (recordLength b s).idx = s.idx := rfl
@[simp] theorem recordLength_val (b : Byte) (s : State) : (recordLength b s).val = s.val := rfl
@[simp] theorem recordLength_csum (b : Byte) (s : State) : (recordLength b s).csum = s.csum := rfl
@[simp] theorem recordLength_len (b : Byte) (s : State) : (recordLength b s).len = b := rfl
@[simp] theorem recordLength_cmd (b : Byte) (s : State) : (recordLength b s).cmd = s.cmd := rfl
@[simp] theorem recordLength_ctrl (b : Byte) (s : State) : (recordLength b s).ctrl = s.ctrl := rfl
@[simp] theorem recordLength_count (b : Byte) (s : State) : (recordLength b s).count = s.count := rfl
@[simp] theorem recordLength_tstamp (b : Byte) (s : State) : (recordLength b s).tstamp = s.tstamp := rfl
@[simp] theorem recordLength_tx (b : Byte) (s : State) : (recordLength b s).tx = s.tx := rfl
@[simp] theorem recordLength_upd (b : Byte) (s : State) : (recordLength b s).upd = s.upd := rfl
@[simp] theorem recordLength_inputs (b : Byte) (s : State) : (recordLength b s).inputs = s.inputs := rfl
@[simp] theorem recordLength_now (b : Byte) (s : State) : (recordLength b s).now = s.now := rfl

/-! ### recordCommand -/

@[simp] theorem recordCommand_params (b : Byte) (s : State) : (recordCommand b s).params = s.params := rfl
@[simp] theorem recordCommand_st (b : Byte) (s : State) : (recordCommand b s).st = .inData := rfl
@[simp] theorem recordCommand_idx (b : Byte) (s : State) : (recordCommand b s).idx = s.idx := rfl
@[simp] theorem recordCommand_val (b : Byte) (s : State) : (recordCommand b s).val = s.val := rfl
@[simp] theorem recordCommand_csum (b : Byte) (s : State) : (recordCommand b s).csum = s.csum := rfl
@[simp] theorem recordCommand_len (b : Byte) (s : State) : (recordCommand b s).len = s.len := rfl
@[simp] theorem recordCommand_cmd (b : Byte) (s : State) : (recordCommand b s).cmd = b := rfl
@[simp] theorem recordCommand_ctrl (b : Byte) (s : State) : (recordCommand b s).ctrl = s.ctrl := rfl
@[simp] theorem recordCommand_count (b : Byte) (s : State) : (recordCommand b s).count = s.count := rfl
@[simp] theorem recordCommand_tstamp (b : Byte) (s : State) : (recordCommand b s).tstamp = s.tstamp := rfl
@[simp] theorem recordCommand_tx (b : Byte) (s : State) : (recordCommand b s).tx = s.tx := rfl
@[simp] theorem recordCommand_upd (b : Byte) (s : State) : (recordCommand b s).upd = s.upd := rfl
@[simp] theorem recordCommand_inputs (b : Byte) (s : State) : (recordCommand b s).inputs = s.inputs := rfl
@[simp] theorem recordCommand_now (b : Byte) (s : State) : (recordCommand b s).now = s.now := rfl

/-! ### advanceIndex -/

@[simp] theorem advanceIndex_params (s : State) : (advanceIndex s).params = s.params := rfl
@[simp] theorem advanceIndex_st (s : State) : (advanceIndex s).st = s.st := rfl
@[simp] theorem advanceIndex_idx (s : State) : (advanceIndex s).idx = s.idx + 1 := rfl
@[simp] theorem advanceIndex_val (s : State) : (advanceIndex s).val = s.val := rfl
@[simp] theorem advanceIndex_csum (s : State) : (advanceIndex s).csum = s.csum := rfl
@[simp] theorem advanceIndex_len (s : State) : (advanceIndex s).len = s.len := rfl
@[simp] theorem advanceIndex_cmd (s : State) : (advanceIndex s).cmd = s.cmd := rfl
@[simp] theorem advanceIndex_ctrl (s : State) : (advanceIndex s).ctrl = s.ctrl := rfl
@[simp] theorem advanceIndex_count (s : State) : (advanceIndex s).count = s.count := rfl
@[simp] theorem advanceIndex_tstamp (s : State) : (advanceIndex s).tstamp = s.tstamp := rfl
@[simp] theorem advanceIndex_tx (s : State) : (advanceIndex s).tx = s.tx := rfl
@[simp] theorem advanceIndex_upd (s : State) : (advanceIndex s).upd = s.upd := rfl
@[simp] theorem advanceIndex_inputs (s : State) : (advanceIndex s).inputs = s.inputs := rfl
@[simp] theorem advanceIndex_now (s : State) : (advanceIndex s).now = s.now := rfl

/-! ### accumulate -/

@[simp] theorem accumulate_params (d : Val) (s : State) : (accumulate d s).params = s.params := rfl
@[simp] theorem accumulate_st (d : Val) (s : State) : (accumulate d s).st = s.st := rfl
@[simp] theorem accumulate_idx (d : Val) (s : State) : (accumulate d s).idx = s.idx := rfl
@[simp] theorem accumulate_val (d : Val) (s : State) : (accumulate d s).val = s.val + d := rfl
@[simp] theorem accumulate_csum (d : Val) (s : State) : (accumulate d s).csum = s.csum := rfl
@[simp] theorem accumulate_len (d : Val) (s : State) : (accumulate d s).len = s.len := rfl
@[simp] theorem accumulate_cmd (d : Val) (s : State) : (accumulate d s).cmd = s.cmd := rfl
@[simp] theorem accumulate_ctrl (d : Val) (s : State) : (accumulate d s).ctrl = s.ctrl := rfl
@[simp] theorem accumulate_count (d : Val) (s : State) : (accumulate d s).count = s.count := rfl
@[simp] theorem accumulate_tstamp (d : Val) (s : State) : (accumulate d s).tstamp = s.tstamp := rfl
@[simp] theorem accumulate_tx (d : Val) (s : State) : (accumulate d s).tx = s.tx := rfl
@[simp] theorem accumulate_upd (d : Val) (s : State) : (accumulate d s).upd = s.upd := rfl
@[simp] theorem accumulate_inputs (d : Val) (s : State) : (accumulate d s).inputs = s.inputs := rfl
@[simp] theorem accumulate_now (d : Val) (s : State) : (accumulate d s).now = s.now := rfl

/-! ### commit -/

@[simp] theorem commit_params (c : Count) (t : Nat) (s : State) : (commit c t s).params = s.params := rfl
@[simp] theorem commit_st (c : Count) (t : Nat) (s : State) : (commit c t s).st = s.st := rfl
@[simp] theorem commit_idx (c : Count) (t : Nat) (s : State) : (commit c t s).idx = s.idx := rfl
@[simp] theorem commit_val (c : Count) (t : Nat) (s : State) : (commit c t s).val = s.val := rfl
@[simp] theorem commit_csum (c : Count) (t : Nat) (s : State) : (commit c t s).csum = s.csum := rfl
@[simp] theorem commit_len (c : Count) (t : Nat) (s : State) : (commit c t s).len = s.len := rfl
@[simp] theorem commit_cmd (c : Count) (t : Nat) (s : State) : (commit c t s).cmd = s.cmd := rfl
@[simp] theorem commit_ctrl (c : Count) (t : Nat) (s : State) : (commit c t s).ctrl = s.ctrl := rfl
@[simp] theorem commit_count (c : Count) (t : Nat) (s : State) : (commit c t s).count = c := rfl
@[simp] theorem commit_tstamp (c : Count) (t : Nat) (s : State) : (commit c t s).tstamp = t := rfl
@[simp] theorem commit_tx (c : Count) (t : Nat) (s : State) : (commit c t s).tx = s.tx := rfl
@[simp] theorem commit_upd (c : Count) (t : Nat) (s : State) : (commit c t s).upd = true := rfl
@[simp] theorem commit_inputs (c : Count) (t : Nat) (s : State) : (commit c t s).inputs = s.inputs := rfl
@[simp] theorem commit_now (c : Count) (t : Nat) (s : State) : (commit c t s).now = s.now := rfl

/-! ### writeControl -/

@[simp] theorem writeControl_params (w : Nat) (s : State) : (writeControl w s).params = s.params := rfl
@[simp] theorem writeControl_st (w : Nat) (s : State) : (writeControl w s).st = s.st := rfl
@[simp] theorem writeControl_idx (w : Nat) (s : State) : (writeControl w s).idx = s.idx := rfl
@[simp] theorem writeControl_val (w : Nat) (s : State) : (writeControl w s).val = s.val := rfl
@[simp] theorem writeControl_csum (w : Nat) (s : State) : (writeControl w s).csum = s.csum := rfl
@[simp] theorem writeControl_len (w : Nat) (s : State) : (writeControl w s).len = s.len := rfl
@[simp] theorem writeControl_cmd (w : Nat) (s : State) : (writeControl w s).cmd = s.cmd := rfl
@[simp] theorem writeControl_ctrl (w : Nat) (s : State) : (writeControl w s).ctrl = ctrlBits s.params w := rfl
@[simp] theorem writeControl_count (w : Nat) (s : State) : (writeControl w s).count = s.count := rfl
@[simp] theorem writeControl_tstamp (w : Nat) (s : State) : (writeControl w s).tstamp = s.tstamp := rfl
@[simp] theorem writeControl_tx (w : Nat) (s : State) : (writeControl w s).tx = s.tx := rfl
@[simp] theorem writeControl_upd (w : Nat) (s : State) : (writeControl w s).upd = s.upd := rfl
@[simp] theorem writeControl_inputs (w : Nat) (s : State) : (writeControl w s).inputs = s.inputs := rfl
@[simp] theorem writeControl_now (w : Nat) (s : State) : (writeControl w s).now = s.now := rfl

/-! ### offer -/

@[simp] theorem offer_params (ev : Event) (s : State) : (offer ev s).params = s.params := rfl
@[simp] theorem offer_st (ev : Event) (s : State) : (offer ev s).st = s.st := rfl
@[simp] theorem offer_idx (ev : Event) (s : State) : (offer ev s).idx = s.idx := rfl
@[simp] theorem offer_val (ev : Event) (s : State) : (offer ev s).val = s.val := rfl
@[simp] theorem offer_csum (ev : Event) (s : State) : (offer ev s).csum = s.csum := rfl
@[simp] theorem offer_len (ev : Event) (s : State) : (offer ev s).len = s.len := rfl
@[simp] theorem offer_cmd (ev : Event) (s : State) : (offer ev s).cmd = s.cmd := rfl
@[simp] theorem offer_ctrl (ev : Event) (s : State) : (offer ev s).ctrl = s.ctrl := rfl
@[simp] theorem offer_count (ev : Event) (s : State) : (offer ev s).count = s.count := rfl
@[simp] theorem offer_tstamp (ev : Event) (s : State) : (offer ev s).tstamp = s.tstamp := rfl
@[simp] theorem offer_tx (ev : Event) (s : State) : (offer ev s).tx = s.tx := rfl
@[simp] theorem offer_upd (ev : Event) (s : State) : (offer ev s).upd = s.upd := rfl
@[simp] theorem offer_inputs (ev : Event) (s : State) : (offer ev s).inputs = ev :: s.inputs := rfl
@[simp] theorem offer_now (ev : Event) (s : State) : (offer ev s).now = s.now := rfl

/-! ### accept -/

@[simp] theorem accept_params (ev : Event) (rest : List Event) (s : State) : (accept ev rest s).params = s.params := rfl
@[simp] theorem accept_st (ev : Event) (rest : List Event) (s : State) : (accept ev rest s).st = s.st := rfl
@[simp] theorem accept_idx (ev : Event) (rest : List Event) (s : State) : (accept ev rest s).idx = s.idx := rfl
@[simp] theorem accept_val (ev : Event) (rest : List Event) (s : State) : (accept ev rest s).val = s.val := rfl
@[simp] theorem accept_csum (ev : Event) (rest : List Event) (s : State) : (accept ev rest s).csum = s.csum := rfl
@[simp] theorem accept_len (ev : Event) (rest : List Event) (s : State) : (accept ev rest s).len = s.len := rfl
@[simp] theorem accept_cmd (ev : Event) (rest : List Event) (s : State) : (accept ev rest s).cmd = s.cmd := rfl
@[simp] theorem accept_ctrl (ev : Event) (rest : List Event) (s : State) : (accept ev rest s).ctrl = s.ctrl := rfl
@[simp] theorem accept_count (ev : Event) (rest : List Event) (s : State) : (accept ev rest s).count = s.count := rfl
@[simp] theorem accept_tstamp (ev : Event) (rest : List Event) (s : State) : (accept ev rest s).tstamp = s.tstamp := rfl
@[simp] theorem accept_tx (ev : Event) (rest : List Event) (s : State) : (accept ev rest s).tx = s.tx := rfl
@[simp] theorem accept_upd (ev : Event) (rest : List Event) (s : State) : (accept ev rest s).upd = false := rfl
@[simp] theorem accept_inputs (ev : Event) (rest : List Event) (s : State) : (accept ev rest s).inputs = rest := rfl
@[simp] theorem accept_now (ev : Event) (rest : List Event) (s : State) : (accept ev rest s).now = evNow s.params ev s.now := rfl

/-! ### resetRegisters -/

@[simp] theorem resetRegisters_params (s : State) : (resetRegisters s).params = s.params := rfl
@[simp] theorem resetRegisters_st (s : State) : (resetRegisters s).st = .awaitHeader := rfl
@[simp] theorem resetRegisters_idx (s : State) : (resetRegisters s).idx = 0 := rfl
@[simp] theorem resetRegisters_val (s : State) : (resetRegisters s).val = 0 := rfl
@[simp] theorem resetRegisters_csum (s : State) : (resetRegisters s).csum = 0 := rfl
@[simp] theorem resetRegisters_len (s : State) : (resetRegisters s).len = 0 := rfl
@[simp] theorem resetRegisters_cmd (s : State) : (resetRegisters s).cmd = 0 := rfl
@[simp] theorem resetRegisters_ctrl (s : State) : (resetRegisters s).ctrl = 0 := rfl
@[simp] theorem resetRegisters_count (s : State) : (resetRegisters s).count = 0 := rfl
@[simp] theorem resetRegisters_tstamp (s : State) : (resetRegisters s).tstamp = 0 := rfl
@[simp] theorem resetRegisters_tx (s : State) : (resetRegisters s).tx = s.tx := rfl
@[simp] theorem resetRegisters_upd (s : State) : (resetRegisters s).upd = s.upd := rfl
@[simp] theorem resetRegisters_inputs (s : State) : (resetRegisters s).inputs = s.inputs := rfl
@[simp] theorem resetRegisters_now (s : State) : (resetRegisters s).now = s.now := rfl

/-! ### closeFrame: what it does to the reading and the strobe depends on CMD -/

@[simp] theorem closeFrame_params (s : State) : (closeFrame s).params = s.params := by
  unfold closeFrame; split <;> rfl
@[simp] theorem closeFrame_st (s : State) : (closeFrame s).st = .awaitHeader := rfl
@[simp] theorem closeFrame_idx (s : State) : (closeFrame s).idx = s.idx := by
  unfold closeFrame; split <;> rfl
@[simp] theorem closeFrame_val (s : State) : (closeFrame s).val = s.val := by
  unfold closeFrame; split <;> rfl
@[simp] theorem closeFrame_csum (s : State) : (closeFrame s).csum = s.csum := by
  unfold closeFrame; split <;> rfl
@[simp] theorem closeFrame_len (s : State) : (closeFrame s).len = s.len := by
  unfold closeFrame; split <;> rfl
@[simp] theorem closeFrame_cmd (s : State) : (closeFrame s).cmd = s.cmd := by
  unfold closeFrame; split <;> rfl
@[simp] theorem closeFrame_ctrl (s : State) : (closeFrame s).ctrl = s.ctrl := by
  unfold closeFrame; split <;> rfl
@[simp] theorem closeFrame_count (s : State) : (closeFrame s).count = if s.cmd = Config.command then s.val else s.count := by
  unfold closeFrame; split <;> rfl
@[simp] theorem closeFrame_tstamp (s : State) : (closeFrame s).tstamp = if s.cmd = Config.command then s.now else s.tstamp := by
  unfold closeFrame; split <;> rfl
@[simp] theorem closeFrame_tx (s : State) : (closeFrame s).tx = s.tx := by
  unfold closeFrame; split <;> rfl
@[simp] theorem closeFrame_upd (s : State) : (closeFrame s).upd = if s.cmd = Config.command then true else s.upd := by
  unfold closeFrame; split <;> rfl
@[simp] theorem closeFrame_inputs (s : State) : (closeFrame s).inputs = s.inputs := by
  unfold closeFrame; split <;> rfl
@[simp] theorem closeFrame_now (s : State) : (closeFrame s).now = s.now := by
  unfold closeFrame; split <;> rfl

/-- A state is its fields. -/
theorem state_ext {s t : State} (h₀ : s.params = t.params) (h₁ : s.st = t.st) (h₂ : s.idx = t.idx)
    (h₃ : s.val = t.val) (h₄ : s.csum = t.csum) (h₅ : s.len = t.len) (h₆ : s.cmd = t.cmd)
    (h₇ : s.ctrl = t.ctrl) (h₈ : s.count = t.count)
    (h₉ : s.tstamp = t.tstamp) (h₁₀ : s.tx = t.tx) (h₁₁ : s.upd = t.upd) (h₁₂ : s.inputs = t.inputs)
    (h₁₃ : s.now = t.now) : s = t := by
  cases s; cases t; simp_all

end Sys2Proof.Machine
end

