-- ==== Sys2Proof/Laws/Ops.lean ====
section
/-! SUPPORT. One lemma per shared operation: everything it can do. Proofs cite these and do not unfold. -/

namespace Sys2Proof.Machine

/-! ### Operands -/

/-- The finalizer is the negation modulo 256 (40_step.md R69). -/
theorem trailerOf_eq_neg (c : Csum) : trailerOf c = -c := (BitVec.neg_eq_not_add c).symm

/-- Adding the trailer back leaves zero (40_step.md R69). -/
theorem add_trailerOf (c : Csum) : c + trailerOf c = 0 := by
  rw [trailerOf_eq_neg]
  exact BitVec.add_right_neg c

theorem outAtHi_zero (b : Byte) : outAtHi 0 b = b := rfl

theorem outAtLo_zero (b : Byte) : outAtLo 0 b = b := rfl

theorem outAtHi_of_ne_zero {c : Nat} (h : c ≠ 0) (b : Byte) : outAtHi c b = ctrlHi c :=
  if_pos (bne_iff_ne.mpr h)

theorem outAtLo_of_ne_zero {c : Nat} (h : c ≠ 0) (b : Byte) : outAtLo c b = ctrlLo c :=
  if_pos (bne_iff_ne.mpr h)

@[simp] theorem byteSum_nil : byteSum [] = 0 := rfl

@[simp] theorem byteSum_cons (b : Byte) (bs : List Byte) : byteSum (b :: bs) = b + byteSum bs := rfl

theorem byteSum_append (as bs : List Byte) : byteSum (as ++ bs) = byteSum as + byteSum bs := by
  induction as with
  | nil => simp
  | cons a as ih => simp [ih, BitVec.add_assoc]

/-! ### The end of an InData step -/

/-- At LEN the frame is closed and the trailer is sent (42_data.md R78). -/
theorem finishData_of_end {s : State} (h : s.idx = s.len) (out : Byte) :
    finishData out s = sendByte (trailerOf s.csum) (closeFrame s) := if_pos h

/-- Elsewhere `out` is sent (42_data.md R78). -/
theorem finishData_of_not_end {s : State} (h : s.idx ≠ s.len) (out : Byte) :
    finishData out s = sendByte out s := if_neg h

/-- DAT.END is the end test after the increment, as the other InData operations are (42_data.md R78). -/
theorem execDatEnd_eq (b : Byte) (s : State) : execDatEnd b s = .next (finishData b (advanceIndex s)) := by
  by_cases h : s.idx + 1 = s.len
  · rw [finishData_of_end (s := advanceIndex s) h]
    exact if_pos h
  · rw [finishData_of_not_end (s := advanceIndex s) h]
    exact if_neg h

/-! ### Streams -/

theorem lastBytes_zero (bs : List Byte) : lastBytes 0 bs = [] := by simp [lastBytes]

/-- Appending a byte appends it to the last bytes. -/
theorem lastBytes_append_one {n : Nat} {bs : List Byte} (b : Byte) :
    lastBytes (n + 1) (bs ++ [b]) = lastBytes n bs ++ [b] := by
  simp only [lastBytes, List.length_append, List.length_cons, List.length_nil, Nat.zero_add, Nat.add_sub_add_right]
  exact List.drop_append_of_le_length (Nat.sub_le _ _)

end Sys2Proof.Machine
end

