-- ==== Sys2Proof/Laws/PerInstr.lean ====
section
/-! SUPPORT. A fact about every operation as syntax, one lemma per constructor: an event record is, on a machine of any
widths, three bytes of key, the operand of a control write after it, and its first bytes are the operation's key. -/

namespace Sys2Proof.Laws.EncodedRecord

/-- The record's length, and the key that its first three bytes hold. -/
def Statement (i : Instr) : Prop :=
  ∀ p : Params, (encode p i).length = 3 + (operandBytes p i).length ∧
    ∃ b0 b1 b2 rest, encode p i = b0 :: b1 :: b2 :: rest ∧ keyOfBytes b0 b1 b2 = instrKey i

/-- It holds whatever the operation's key and operand are. -/
theorem of_any (i : Instr) : Statement i :=
  fun _ => ⟨by simp [encode, keyBytes]; omega, _, _, _, _, rfl, keyOfBytes_keyBytes _⟩

theorem reset : Statement .reset := of_any _

theorem ctrlWrite (w : Nat) : Statement (.ctrlWrite w) := of_any _

theorem hdrMatch : Statement .hdrMatch := of_any _

theorem hdrPass (b : Byte) : Statement (.hdrPass b) := of_any _

theorem lenMatch : Statement .lenMatch := of_any _

theorem lenAbort (b : Byte) : Statement (.lenAbort b) := of_any _

theorem cmdMatch : Statement .cmdMatch := of_any _

theorem cmdAbort (b : Byte) : Statement (.cmdAbort b) := of_any _

theorem datHi (b : Byte) : Statement (.datHi b) := of_any _

theorem datLo (b : Byte) : Statement (.datLo b) := of_any _

theorem datEnd (b : Byte) : Statement (.datEnd b) := of_any _

theorem datPass (n : Idx) (b : Byte) : Statement (.datPass n b) := of_any _

end Sys2Proof.Laws.EncodedRecord
end

