-- ==== Sys2Proof/Laws/Step.lean ====
section
/-! SUPPORT. What a step and a run can do, said once. -/

namespace Sys2Proof.Machine

/-! ### Keys of events -/

theorem stOfCode_stCode (q : ParserState) : stOfCode (stCode q) = q := by cases q <;> rfl

theorem stCode_stOfCode (c : StCode) : stCode (stOfCode c) = c := by
  revert c; decide

/-- Rows 3 to 12 by state: the row that a BYTE event selects (30_encoding.md R52). -/
theorem selectRow_byte (f : StCode) (n : Idx) (b : Byte) :
    selectRow (mkKey 0 f n b) = some (
      if f = 0 then (if b = Config.header then .hdrMatch else .hdrPass)
      else if f = 1 then (if b = Config.length then .lenMatch else .lenAbort)
      else if f = 2 then (if b = Config.command then .cmdMatch else .cmdAbort)
      else if n = Config.posHi then .datHi
      else if n = Config.posLo then .datLo
      else if n = Config.length then .datEnd
      else .datPass) := by
  have hf : f = 0 ∨ f = 1 ∨ f = 2 ∨ f = 3 := by revert f; decide
  simp only [selectRow, rowOrder, List.find?_cons, rowHolds_mkKey]
  rcases hf with rfl | rfl | rfl | rfl
  · by_cases h : b = Config.header <;> simp [h]
  · by_cases h : b = Config.length <;> simp [h]
  · by_cases h : b = Config.command <;> simp [h]
  · by_cases h₁ : n = Config.posHi
    · simp [h₁]
    · by_cases h₂ : n = Config.posLo
      · simp [h₂]
      · by_cases h₃ : n = Config.length
        · simp [h₃]
        · simp [h₁, h₂, h₃]

/-! ### The operation an event performs, by parser state -/

theorem select_byte (s : State) (b : Byte) (t : Nat) :
    selectInstr s (.byte b t) = .ok (
      match s.st with
      | .awaitHeader => if b = Config.header then .hdrMatch else .hdrPass b
      | .awaitLength => if b = Config.length then .lenMatch else .lenAbort b
      | .awaitCommand => if b = Config.command then .cmdMatch else .cmdAbort b
      | .inData =>
        if s.idx + 1 = Config.posHi then .datHi b
        else if s.idx + 1 = Config.posLo then .datLo b
        else if s.idx + 1 = Config.length then .datEnd b
        else .datPass (s.idx + 1) b) := by
  unfold selectInstr eventKey
  rw [show evCode (.byte b t) = 0 from rfl, show evByte (.byte b t) = b from rfl,
    decodeKey_of_selectRow (selectRow_byte _ _ _)]
  cases s.st
  · by_cases h : b = Config.header <;> simp [h, stCode, rowInstr]
  · by_cases h : b = Config.length <;> simp [h, stCode, rowInstr]
  · by_cases h : b = Config.command <;> simp [h, stCode, rowInstr]
  · generalize s.idx + 1 = n
    by_cases h₁ : n = Config.posHi
    · simp [h₁, stCode, rowInstr]
    · by_cases h₂ : n = Config.posLo
      · simp [h₂, stCode, rowInstr]
      · by_cases h₃ : n = Config.length
        · simp [h₃, stCode, rowInstr]
        · simp [h₁, h₂, h₃, stCode, rowInstr]

theorem select_ctrlw (s : State) (w : Nat) : selectInstr s (.ctrlw w) = .ok (.ctrlWrite w) := by
  have h : selectRow (eventKey s (.ctrlw w)) = some .ctrlWrite := by
    simp [eventKey, evCode, selectRow, rowOrder, rowHolds_mkKey]
  exact decodeKey_of_selectRow h

theorem select_reset (s : State) : selectInstr s .reset = .ok .reset := by
  have h : selectRow (eventKey s .reset) = some .reset := by
    simp [eventKey, evCode, selectRow, rowOrder, rowHolds_mkKey]
  exact decodeKey_of_selectRow h

theorem select_reserved (s : State) : selectInstr s .reserved = .error .reservedEventKind := by
  have h : selectRow (eventKey s .reserved) = none := by
    simp [eventKey, evCode, selectRow, rowOrder, rowHolds_mkKey]
  simp [selectInstr, decodeKey, h]

/-! ### One step -/

theorem step_nil {s : State} (h : s.inputs = []) : step s = .next (lowerStrobe s) := by simp [step, h]

theorem step_ok {s : State} {ev : Event} {rest : List Event} {i : Instr} (h : s.inputs = ev :: rest)
    (hi : selectInstr s ev = .ok i) : step s = exec i (accept ev rest s) := by simp [step, h, hi]

theorem step_error {s : State} {ev : Event} {rest : List Event} {why : Reject} (h : s.inputs = ev :: rest)
    (hi : selectInstr s ev = .error why) : step s = .refused (.rejected why) := by simp [step, h, hi]

/-- A byte step is `exec` of the operation that the parser's state and index select (30_encoding.md R52). -/
theorem step_byte {s : State} {b : Byte} {t : Nat} {rest : List Event} (h : s.inputs = .byte b t :: rest) :
    step s = exec (
      match s.st with
      | .awaitHeader => if b = Config.header then .hdrMatch else .hdrPass b
      | .awaitLength => if b = Config.length then .lenMatch else .lenAbort b
      | .awaitCommand => if b = Config.command then .cmdMatch else .cmdAbort b
      | .inData =>
        if s.idx + 1 = Config.posHi then .datHi b
        else if s.idx + 1 = Config.posLo then .datLo b
        else if s.idx + 1 = Config.length then .datEnd b
        else .datPass (s.idx + 1) b) (accept (.byte b t) rest s) := step_ok h (select_byte s b t)

/-- Whether the strobe was high before a step has no influence on it. -/
theorem step_of_upd {s : State} {ev : Event} {rest : List Event} (h : s.inputs = ev :: rest) (x : Bool) :
    step { s with upd := x } = step s := by
  have h' : ({ s with upd := x } : State).inputs = ev :: rest := h
  cases hd : selectInstr s ev with
  | ok i => rw [step_ok h hd, step_ok h' (i := i) hd]; rfl
  | error e => rw [step_error h hd, step_error h' (why := e) hd]

/-! ### Runs -/

@[simp] theorem stepN_zero (s : State) : stepN 0 s = .next s := rfl

theorem stepN_succ {n : Nat} {s t : State} (h : step s = .next t) : stepN (n + 1) s = stepN n t := by
  simp [stepN, h]

/-- A run is a run after a run. -/
theorem stepN_add {m : Nat} : ∀ {n : Nat} {s t : State}, stepN m s = .next t → stepN (m + n) s = stepN n t := by
  induction m with
  | zero =>
    intro n s t h
    simp only [stepN_zero, Host.Outcome.next.injEq] at h
    simp [h]
  | succ m ih =>
    intro n s t h
    simp only [stepN] at h
    split at h
    · rename_i u hu
      rw [show m + 1 + n = (m + n) + 1 by omega, stepN_succ hu]
      exact ih h
    · cases h
    · cases h

theorem strobes_succ {n : Nat} {s t : State} (h : step s = .next t) :
    strobes (n + 1) s = (if t.upd then 1 else 0) + strobes n t := by simp [strobes, h]

end Sys2Proof.Machine
end

