-- ==== Sys2Proof/Laws/Runs.lean ====
section
/-! SUPPORT. Runs over a stimulus: control writes between two bytes only set CTRL for the byte after them. -/

namespace Sys2Proof.Machine

theorem strobes_add {m : Nat} : ∀ {n : Nat} {s t : State}, stepN m s = .next t →
    strobes (m + n) s = strobes m s + strobes n t := by
  induction m with
  | zero =>
    intro n s t h
    cases h
    simp [strobes]
  | succ m ih =>
    intro n s t h
    simp only [stepN] at h
    split at h
    · rename_i u hu
      rw [show m + 1 + n = (m + n) + 1 by omega, strobes_succ hu, strobes_succ hu, ih h]
      omega
    · cases h
    · cases h

theorem ctrlAfter_nil (p : Params) (c : Nat) : ctrlAfter p c [] = c := rfl

theorem lastWrite_append (p : Params) (c : Nat) (as bs : List Nat) :
    lastWrite p c (as ++ bs) = lastWrite p (lastWrite p c as) bs := List.foldl_append

theorem ctrlAfter_cons (p : Params) (c : Nat) (x : Chunk) (cs : List Chunk) :
    ctrlAfter p c (x :: cs) = ctrlAfter p (lastWrite p c x.ctrlWrites) cs := by
  unfold ctrlAfter
  rw [List.flatMap_cons, lastWrite_append]

theorem ctrlAfter_append (p : Params) (c : Nat) (as bs : List Chunk) :
    ctrlAfter p c (as ++ bs) = ctrlAfter p (ctrlAfter p c as) bs := by
  unfold ctrlAfter
  rw [List.flatMap_append, lastWrite_append]

theorem stimulus_cons (c : Chunk) (cs : List Chunk) : stimulus (c :: cs) = chunkEvents c ++ stimulus cs := by
  simp [stimulus]

theorem stimulus_append (as bs : List Chunk) : stimulus (as ++ bs) = stimulus as ++ stimulus bs := by
  simp [stimulus]

/-- Control writes and then a byte: the byte's step with CTRL at the last value written. -/
theorem chunk_run (ws : List Nat) : ∀ (s u : State) (b : Byte) (t : Nat) (rest : List Event),
    s.inputs = ws.map .ctrlw ++ .byte b t :: rest →
    step { s with ctrl := lastWrite s.params s.ctrl ws, inputs := .byte b t :: rest } = .next u →
    stepN (ws.length + 1) s = .next u ∧ strobes (ws.length + 1) s = if u.upd then 1 else 0 := by
  induction ws with
  | nil =>
    intro s u b t rest h hu
    have : ({ s with ctrl := lastWrite s.params s.ctrl [], inputs := .byte b t :: rest } : State) = s := by
      cases s
      simp at h
      subst h
      rfl
    rw [this] at hu
    exact ⟨stepN_succ hu, by rw [strobes_succ hu]; simp [strobes]⟩
  | cons w ws ih =>
    intro s u b t rest h hu
    have h2 : s.inputs = Event.ctrlw w :: (ws.map Event.ctrlw ++ Event.byte b t :: rest) := h
    have s1 : step s = .next { s with ctrl := ctrlBits s.params w, inputs := ws.map .ctrlw ++ .byte b t :: rest, upd := false } :=
      step_ok h2 (select_ctrlw s w)
    rw [List.length_cons, stepN_succ s1, strobes_succ s1]
    have := ih { s with ctrl := ctrlBits s.params w, inputs := ws.map .ctrlw ++ .byte b t :: rest, upd := false } u b t
      rest rfl ((step_of_upd (s := { s with ctrl := lastWrite s.params s.ctrl (w :: ws), inputs := .byte b t :: rest })
        rfl false).trans hu)
    rw [this.1, this.2]
    simp

/-- The first chunk of a stimulus, and then the rest of it. -/
theorem stimulus_run {c : Chunk} {cs : List Chunk} {s u : State} {rest : List Event}
    (h : s.inputs = stimulus (c :: cs) ++ rest)
    (hu : step { s with ctrl := lastWrite s.params s.ctrl c.ctrlWrites
                        inputs := .byte c.byte c.time :: (stimulus cs ++ rest) } = .next u) :
    stepN (stimulus (c :: cs)).length s = stepN (stimulus cs).length u ∧
      strobes (stimulus (c :: cs)).length s = (if u.upd then 1 else 0) + strobes (stimulus cs).length u := by
  have hl : (stimulus (c :: cs)).length = (c.ctrlWrites.length + 1) + (stimulus cs).length := by
    simp [stimulus, chunkEvents]
    omega
  have := chunk_run c.ctrlWrites s u c.byte c.time (stimulus cs ++ rest)
    (by rw [h]; simp [stimulus, chunkEvents]) hu
  rw [hl, stepN_add this.1, strobes_add this.1, this.2]
  exact ⟨rfl, rfl⟩

end Sys2Proof.Machine
end

