-- ==== Sys2Proof/Tests/Slice0.lean ====
section
/-! SUPPORT. Tests. Expected results come from the spec's tables and vectors (the source is named at each test), keys
and records are written out from 30_encoding.md R51 and R52. The witnesses at the end show, for each statement with
hypotheses, concrete states and operands that meet them. -/

namespace Sys2Proof.Tests

open Sys2Proof Sys2Proof.Machine

/-! ### Well-formedness: one ill-formed term for each check -/

theorem test_wf_hdrPass_header : (Instr.hdrPass 0x16).wellFormed Config.defaults = false := by decide
theorem test_wf_lenAbort_length : (Instr.lenAbort 0x11).wellFormed Config.defaults = false := by decide
theorem test_wf_cmdAbort_command : (Instr.cmdAbort 0x0B).wellFormed Config.defaults = false := by decide
theorem test_wf_datPass_posHi : (Instr.datPass 3 0x00).wellFormed Config.defaults = false := by decide
theorem test_wf_datPass_posLo : (Instr.datPass 4 0x00).wellFormed Config.defaults = false := by decide
theorem test_wf_datPass_length : (Instr.datPass 17 0x00).wellFormed Config.defaults = false := by decide
/-- The value has one bit more than CTRL_W, at the default width and at the least width. -/
theorem test_wf_ctrlWrite_wide : (Instr.ctrlWrite (2 ^ 32)).wellFormed Config.defaults = false ∧
    (Instr.ctrlWrite 65536).wellFormed { ctrlW := 16, tsW := 32 } = false ∧
    (Instr.ctrlWrite 65536).wellFormed Config.defaults = true := by decide
/-- CTRL_W must be at least 16 (00_scope.md R4). -/
theorem test_widths_legal : Config.defaults.legal = true ∧ (Params.mk 16 1).legal = true ∧
    (Params.mk 15 32).legal = false := by decide
theorem test_wf_accepted :
    (Instr.hdrPass 0x17).wellFormed Config.defaults = true ∧ (Instr.lenAbort 0x16).wellFormed Config.defaults = true ∧
    (Instr.cmdAbort 0x16).wellFormed Config.defaults = true ∧ (Instr.datPass 16 0x16).wellFormed Config.defaults = true := by decide

/-! ### Decoding: the keys of 95_test_vectors.md section 2.1 -/

theorem test_decode_reset :
    decodeTableWord 24 0x80000 = some .reset ∧ decodeTableWord 24 0xBFFFF = some .reset := by decide
/-- EV = 1, the event's value 0x12345678 in the four bytes after the key. -/
theorem test_decode_ctrlWrite :
    decodeTableWord 56 0x12345678040000 = some (.ctrlWrite 0x12345678) ∧
    decodeTableWord 24 0x40000 = some (.ctrlWrite 0) := by decide
theorem test_decode_hdr :
    decodeTableWord 24 0x00016 = some .hdrMatch ∧ decodeTableWord 24 0x01216 = some .hdrMatch ∧
    decodeTableWord 24 0x00015 = some (.hdrPass 0x15) ∧ decodeTableWord 24 0x00017 = some (.hdrPass 0x17) := by decide
theorem test_decode_len :
    decodeTableWord 24 0x10111 = some .lenMatch ∧ decodeTableWord 24 0x10116 = some (.lenAbort 0x16) ∧
    decodeTableWord 24 0x10110 = some (.lenAbort 0x10) := by decide
theorem test_decode_cmd :
    decodeTableWord 24 0x2010B = some .cmdMatch ∧ decodeTableWord 24 0x2010C = some (.cmdAbort 0x0C) ∧
    decodeTableWord 24 0x20116 = some (.cmdAbort 0x16) := by decide
theorem test_decode_dat :
    decodeTableWord 24 0x30312 = some (.datHi 0x12) ∧ decodeTableWord 24 0x30434 = some (.datLo 0x34) ∧
    decodeTableWord 24 0x3114B = some (.datEnd 0x4B) ∧ decodeTableWord 24 0x31116 = some (.datEnd 0x16) ∧
    decodeTableWord 24 0x30116 = some (.datPass 1 0x16) ∧ decodeTableWord 24 0x30500 = some (.datPass 5 0x00) ∧
    decodeTableWord 24 0x31004 = some (.datPass 16 0x04) := by decide
/-- EV = 3 is refused; so are a record whose spare bits are set and one that is cut short. -/
theorem test_decode_rejects :
    decodeTableWord 24 0xC0000 = none ∧ decodeTableWord 24 0x100016 = none ∧
    decode Config.defaults [0x00, 0x00, 0x0C] = .error .reservedEventKind ∧ decode Config.defaults [0x16, 0x00, 0x10] = .error .spareBitsSet ∧
    decode Config.defaults [0x16, 0x00] = .error .truncated ∧ decode Config.defaults [0x00, 0x00, 0x04, 0x78] = .error .truncated :=
  ⟨by decide, by decide, rfl, rfl, rfl, rfl⟩
/-- K = 0x3114B as bytes, least significant first; the bytes after the record are left. -/
theorem test_decode_bytes :
    decode Config.defaults [0x4B, 0x11, 0x03, 0xAA] = .ok (.datEnd 0x4B, [0xAA]) ∧ encode Config.defaults (.datEnd 0x4B) = [0x4B, 0x11, 0x03] ∧
    encode Config.defaults (.ctrlWrite 0x12345678) = [0x00, 0x00, 0x04, 0x78, 0x56, 0x34, 0x12] := ⟨rfl, rfl, rfl⟩

/-- Other widths: 16 bits take two bytes; 20 bits take three, and the four above them must be clear. -/
theorem test_decode_widths :
    decode { ctrlW := 16, tsW := 32 } [0x00, 0x00, 0x04, 0xE8, 0x03, 0xAA] = .ok (.ctrlWrite 1000, [0xAA]) ∧
    decode { ctrlW := 20, tsW := 32 } [0x00, 0x00, 0x04, 0x00, 0x00, 0x0F] = .ok (.ctrlWrite 0xF0000, []) ∧
    decode { ctrlW := 20, tsW := 32 } [0x00, 0x00, 0x04, 0x00, 0x00, 0x10] = .error .spareBitsSet :=
  ⟨rfl, rfl, rfl⟩

/-! ### One step of each operation: the vectors of 95_test_vectors.md sections 2.3 to 2.7 -/

/-- A state with LEN and CMD as a frame leaves them, COUNT = 42 and TSTAMP = 119. -/
def at' (q : ParserState) (idx : Idx) (val : Val) (csum : Csum) (ctrl : Nat) : State :=
  { State.reset with st := q, idx := idx, val := val, csum := csum, ctrl := ctrl, len := 0x11, cmd := 0x0B
                     count := 42, tstamp := 119 }

theorem test_V_HDR_1 : traceHolds (at' .awaitHeader 17 0x2A 0x00 0) 7
    [.rx [0x16], .tx [0x16], .noupd, .state [(.st, 1), (.idx, 0), (.val, 0), (.csum, 0x16), (.count, 42)]] := by decide
theorem test_V_HDR_2 : traceHolds (at' .awaitHeader 0 0 0xA1 0) 7
    [.rx [0x16], .tx [0x16], .noupd, .state [(.st, 1), (.csum, 0x16)]] := by decide
theorem test_V_HDR_3 : traceHolds (at' .awaitHeader 17 0x2A 0x10 0) 7
    [.rx [0x0B], .tx [0x0B], .noupd, .state [(.st, 0), (.csum, 0x1B), (.idx, 17), (.val, 0x2A)]] := by decide
theorem test_V_HDR_4 : traceHolds (at' .awaitHeader 0 0 0xFF 9) 7
    [.rx [0x11], .tx [0x11], .noupd, .state [(.st, 0), (.csum, 0x10)]] := by decide
theorem test_V_LEN_1 : traceHolds { at' .awaitLength 0 0 0x16 0 with len := 0 } 7
    [.rx [0x11], .tx [0x11], .noupd, .state [(.st, 2), (.csum, 0x27), (.len, 0x11)]] := by decide
theorem test_V_LEN_2 : traceHolds { at' .awaitLength 0 0 0x16 0 with len := 0 } 7
    [.rx [0x12], .tx [0x12], .noupd, .state [(.st, 0), (.csum, 0x28), (.len, 0x00)]] := by decide
theorem test_V_LEN_3 : traceHolds (at' .awaitLength 0 0 0x16 0) 7
    [.rx [0x16], .tx [0x16], .noupd, .state [(.st, 0), (.csum, 0x2C)]] := by decide
theorem test_V_CMD_1 : traceHolds { at' .awaitCommand 0 0 0x27 0 with cmd := 0 } 7
    [.rx [0x0B], .tx [0x0B], .noupd, .state [(.st, 3), (.csum, 0x32), (.cmd, 0x0B), (.idx, 0)]] := by decide
theorem test_V_CMD_2 : traceHolds { at' .awaitCommand 0 0 0x27 0 with cmd := 0 } 7
    [.rx [0x0C], .tx [0x0C], .noupd, .state [(.st, 0), (.csum, 0x33), (.cmd, 0x00)]] := by decide
theorem test_V_CMD_4 : traceHolds (at' .awaitCommand 0 0 0x27 0) 7
    [.rx [0x11], .tx [0x11], .noupd, .state [(.st, 0), (.csum, 0x38)]] := by decide
theorem test_V_DAT_3 : traceHolds (at' .inData 7 0x2A 0x5F 1000) 7
    [.rx [0x16], .tx [0x16], .noupd, .state [(.st, 3), (.idx, 8), (.csum, 0x75), (.val, 0x2A)]] := by decide
theorem test_V_DAT_4 : traceHolds (at' .inData 15 0x2A 0xB1 1000) 7
    [.rx [0x04], .tx [0x04], .noupd, .state [(.st, 3), (.idx, 16), (.csum, 0xB5)]] := by decide
theorem test_V_HI_2 : traceHolds (at' .inData 2 0 0x32 1000) 7
    [.rx [0x01], .tx [0x03], .noupd, .state [(.idx, 3), (.val, 0x0100), (.csum, 0x35)]] := by decide
theorem test_V_HI_4 : traceHolds (at' .inData 2 0 0x32 65536) 7
    [.rx [0xFF], .tx [0x00], .noupd, .state [(.idx, 3), (.val, 0xFF00), (.csum, 0x32)]] := by decide
theorem test_V_LO_2 : traceHolds (at' .inData 3 0x0100 0x35 1000) 7
    [.rx [0x2C], .tx [0xE8], .noupd, .state [(.idx, 4), (.val, 0x012C), (.csum, 0x1D)]] := by decide
theorem test_V_LO_3 : traceHolds (at' .inData 3 0xFF00 0x31 0) 7
    [.rx [0xFF], .tx [0xFF], .noupd, .state [(.idx, 4), (.val, 0xFFFF), (.csum, 0x30)]] := by decide
theorem test_V_END_2 : traceHolds { at' .inData 16 0x2A 0xB5 150 with count := 0, tstamp := 0 } 119
    [.rx [0x00], .tx [0x4B], .upd 42 119, .state [(.st, 0), (.idx, 17), (.csum, 0), (.ctrl, 150)]] := by decide
theorem test_V_END_3 : traceHolds (at' .inData 16 0 0x00 0) 119
    [.now 500, .rx [0x55], .tx [0x00], .upd 0 500, .state [(.st, 0), (.count, 0), (.tstamp, 500)]] := by decide
theorem test_V_CTL_4 : traceHolds (at' .inData 3 0x0100 0xDC 150) 7
    [.ctrl 0x0102, .state [(.ctrl, 258), (.st, 3), (.idx, 3), (.val, 0x0100), (.csum, 0xDC)], .tx []] := by decide
theorem test_V_CTL_5 : traceHolds (at' .awaitHeader 0 0 0 0) 7
    [.ctrl 0xFFFFFFFF, .state [(.ctrl, 4294967295)], .tx [], .noupd] := by decide
/-- 92_eei_decisions.md D5: with CTRL_W = 16 a written 65536 reads as 0; with the default width it does not. -/
theorem test_ctrl_width : traceHolds (State.resetWith { ctrlW := 16, tsW := 32 }) 7
      [.ctrl 65536, .state [(.ctrl, 0)], .ctrl 65535, .state [(.ctrl, 65535)]] = true ∧
    traceHolds State.reset 7 [.ctrl 65536, .state [(.ctrl, 65536)]] = true := by decide
theorem test_V_RST_1 : traceHolds (at' .inData 9 0x012C 0x77 150) 7
    [.reset, .tx [], .noupd, .state [(.st, 0), (.idx, 0), (.val, 0), (.csum, 0), (.len, 0), (.cmd, 0), (.ctrl, 0)
                                    , (.count, 0), (.tstamp, 0)]] := by decide
/-- 42_data.md R83: BAD.STATE relays the byte and returns to AwaitHeader. -/
theorem test_BAD_STATE : (match execBadState 0x05 (at' .inData 9 0 0x10 0) with
    | .next t => decide (t.st = .awaitHeader ∧ t.tx = [0x05] ∧ t.csum = 0x15 ∧ t.idx = 9)
    | .fault _ => false
    | .refused _ => false) = true := by decide
/-- An expectation that is not met makes a trace fail (30_encoding.md R56). -/
theorem test_trace_fails : traceHolds (at' .awaitHeader 0 0 0 0) 7 [.rx [0x16], .tx [0x17]] = false ∧
    traceHolds (at' .awaitHeader 0 0 0 0) 7 [.rx [0x16], .upd 0 7] = false ∧
    traceHolds (at' .awaitHeader 0 0 0 0) 7 [.rx [0x16], .state [(.st, 0)]] = false := by decide

/-! ### Arithmetic and freshness: sections 2.2 and S8-7 -/

theorem test_trailer : trailerOf 0x32 = 0xCE ∧ trailerOf 0x7F = 0x81 ∧ trailerOf 0xB5 = 0x4B := by decide
theorem test_override : ctrlHi 74565 = 0x23 ∧ ctrlLo 74565 = 0x45 ∧ ctrlHi 256 = 0x01 ∧ outAtHi 0 0x12 = 0x12 ∧
    outAtLo 255 0x34 = 0xFF := by decide
theorem test_fresh : freshWithin 60000 60118 (at' .awaitHeader 0 0 0 0) = true ∧
    freshWithin 60000 60119 (at' .awaitHeader 0 0 0 0) = false ∧ ageOf Config.defaults 0x00000010 0xFFFFFF00 = 272 ∧
    ageOf { ctrlW := 32, tsW := 8 } 0x10 0xF0 = 32 := by decide
/-- The frames F42 and F300 of the vectors' conventions. -/
theorem test_frames :
    frame [0x00, 0x00, 0x00, 0x2A, 0x00, 0x00, 0x03, 0xE8, 0x00, 0x00, 0x00, 0x64, 0x01, 0x02, 0x03, 0x04] =
      [0x16, 0x11, 0x0B, 0x00, 0x00, 0x00, 0x2A, 0x00, 0x00, 0x03, 0xE8, 0x00, 0x00, 0x00, 0x64, 0x01, 0x02, 0x03
      , 0x04, 0x4B] ∧
    (frame [0, 0, 1, 0x2C, 0, 0, 0, 0, 0, 0, 0, 0, 0, 0, 0, 0]).getLast? = some 0xA1 := by decide
/-- 30_encoding.md R58: a byte and a control write together are ordered byte first; a byte beside `rst` is lost. -/
theorem test_ports :
    eventsOf ⟨false, true, 0x2C, true, 7, 5⟩ = [.byte 0x2C 5, .ctrlw 7] ∧
    eventsOf ⟨true, true, 0x2C, true, 7, 5⟩ = [.reset] ∧ eventsOf ⟨false, false, 0, false, 7, 5⟩ = [] := by decide

/-! ### Reset and the first step -/

theorem test_reset_state : State.reset.st = .awaitHeader ∧ State.reset.tx = [] ∧ State.reset.inputs = [] := by decide
/-- A placed word is the next operation, the first one after reset included (DAT.END needs a frame at its end). -/
theorem test_placed : (State.reset.withFetchWord 24 0x3114B).idx = 16 ∧
    (State.reset.withFetchWord 24 0x3114B).inputs = [.byte 0x4B 0] ∧
    (State.reset.withFetchWord 56 0x12345678040000).inputs = [.ctrlw 0x12345678] ∧
    (State.reset.withFetchWord 24 0xC0000).inputs = [.reserved] := by decide

/-! ### Witnesses: for each statement with hypotheses, states and operands that meet them -/

/-- A state with pending events. -/
def pend (s : State) (evs : List Event) : State := { s with inputs := evs }

/-- A frame state whose last `idx` bytes sent were zeros, so that the invariant holds. -/
def mid (idx : Idx) (evs : List Event) : State :=
  { at' .inData idx 0 0x32 150 with tx := List.replicate 16 0, inputs := evs }

/-- A chunk without control writes. -/
def ch (b : Byte) : Chunk := ⟨[], b, 9⟩

theorem wit_mid_inv (evs : List Event) : ParserInv (mid 16 evs) ∧ ParserInv (mid 1 evs) := by
  constructor <;> constructor <;> simp only [mid, at'] <;> decide

theorem wit_DecodeOfEncode : (Instr.ctrlWrite 0xFFFFFFFF).wellFormed Config.defaults = true ∧
    (Instr.hdrPass 0xFF).wellFormed Config.defaults = true ∧ (Instr.datPass 18 0).wellFormed Config.defaults = true := by decide
/-- Row 12 is reached past the eleven rows before it; and a key of each kind of event. -/
theorem wit_OperationMapByCondition : rowOrder = rowOrder.take 11 ++ .datPass :: [] ∧
    (0x31004 : Key) &&& rowMask .datPass = rowMatch .datPass ∧
    (∀ q ∈ rowOrder.take 11, (0x31004 : Key) &&& rowMask q ≠ rowMatch q) ∧
    keyEv 0x31004 ≠ 3 ∧ keyEv 0x7FFFF ≠ 3 ∧ keyEv 0xBFFFF ≠ 3 := by decide
theorem wit_EveryByteKeySelectsOneByteOperation : keyEv 0x00000 = 0 ∧ keyEv 0x3FFFF = 0 := by decide
theorem wit_DecodedKeyReencodes : 0xFFFFFFFF < 2 ^ Config.defaults.ctrlW ∧
    decodeKey 0x7FFFF 0xFFFFFFFF = .ok (.ctrlWrite 0xFFFFFFFF) ∧
    decodeKey 0x31210 0 = .ok (.datPass 18 0x10) := ⟨by decide, rfl, rfl⟩
theorem wit_ReservedEventKindIsRefused : keyEv 0xC0000 = 3 ∧ keyEv 0xFFFFF = 3 ∧
    (pend State.reset [.reserved]).inputs = .reserved :: [] := by decide
theorem wit_StepRunsTheDecodedOperation : (mid 16 [.byte 0x4B 9]).inputs = .byte 0x4B 9 :: [] ∧
    decodeKey (mkKey (evCode (.byte 0x4B 9)) (stCode (mid 16 []).st) ((mid 16 []).idx + 1) (evByte (.byte 0x4B 9)))
      (evOperand (.byte 0x4B 9)) = .ok (.datEnd 0x4B) := ⟨rfl, rfl⟩
theorem wit_PlacedWordIsTheNextOperation : State.reset.now < 2 ^ State.reset.params.tsW ∧
    decodeTableWord 24 0x31004 = some (.datPass 16 0x04) := by decide
theorem wit_NoEventHoldsEverything : State.reset.inputs = [] := rfl
theorem wit_EveryStepCompletes : (mid 16 [.byte 0 9]).inputs = .byte 0 9 :: [] ∧ Event.byte 0 9 ≠ .reserved ∧
    ∃ why, step (pend State.reset [.reserved]) = .refused why := ⟨rfl, by decide, _, rfl⟩
theorem wit_HdrMatchStartsAFrame : (at' .awaitHeader 17 1 2 3).st = .awaitHeader := rfl
theorem wit_HdrPassRelays : (at' .awaitHeader 17 1 2 3).st = .awaitHeader ∧ (0x17 : Byte) ≠ 0x16 := by decide
theorem wit_LenMatchRecordsTheLength : (at' .awaitLength 0 0 0x16 3).st = .awaitLength := rfl
theorem wit_LenAbortAbandonsTheFrame : (at' .awaitLength 0 0 0x16 3).st = .awaitLength ∧
    (0x16 : Byte) ≠ 0x11 := by decide
theorem wit_CmdMatchEntersTheData : (at' .awaitCommand 0 0 0x27 3).st = .awaitCommand := rfl
theorem wit_CmdAbortAbandonsTheFrame : (at' .awaitCommand 0 0 0x27 3).st = .awaitCommand ∧
    (0x16 : Byte) ≠ 0x0B := by decide
theorem wit_BytesWithoutHeaderPassThrough : State.reset.st = .awaitHeader ∧
    (∀ c ∈ [⟨[5, 6], 0x15, 1⟩, ch 0x17], c.byte ≠ 0x16) ∧
    (pend State.reset (stimulus [⟨[5, 6], 0x15, 1⟩, ch 0x17])).inputs =
      stimulus [⟨[5, 6], 0x15, 1⟩, ch 0x17] ++ [] := by decide
theorem wit_AbortingHeaderIsMissed : State.reset.st = .awaitHeader ∧
    (pend State.reset [.byte 0x16 1, .byte 0x16 2, .byte 0x11 3, .byte 0x0B 4]).inputs =
      .byte 0x16 1 :: .byte 0x16 2 :: .byte 0x11 3 :: .byte 0x0B 4 :: [] ∧
    (pend State.reset [.byte 0x16 1, .byte 0x11 2, .byte 0x16 3, .byte 0x11 4, .byte 0x0B 5]).inputs =
      .byte 0x16 1 :: .byte 0x11 2 :: .byte 0x16 3 :: .byte 0x11 4 :: .byte 0x0B 5 :: [] := ⟨rfl, rfl, rfl⟩
/-- Data positions 1, 2, 5 and 16, at the edges of what DAT.PASS takes. -/
theorem wit_DatPassRelays : ∀ i ∈ [(0 : Idx), 1, 4, 15], (mid i []).st = .inData ∧ (mid i []).idx + 1 ≠ 3 ∧
    (mid i []).idx + 1 ≠ 4 ∧ (mid i []).idx + 1 ≠ 17 ∧ (mid i []).idx + 1 ≠ (mid i []).len := by decide
theorem wit_DatHiTakesTheHighByte : (mid 2 []).idx + 1 ≠ (mid 2 []).len ∧ (mid 2 []).st = .inData ∧
    (mid 2 []).idx = 2 := by decide
theorem wit_DatLoTakesTheLowByte : (mid 3 []).idx + 1 ≠ (mid 3 []).len ∧ (mid 3 []).st = .inData ∧
    (mid 3 []).idx = 3 := by decide
theorem wit_DatEndClosesTheFrame : (mid 16 []).idx + 1 = (mid 16 []).len ∧ (mid 16 []).st = .inData ∧
    (mid 16 []).idx = 16 := by decide
theorem wit_InDataStepIsTheCompleteUpdate : (mid 2 [.byte 7 9]).st = .inData ∧
    (mid 2 [.byte 7 9]).inputs = .byte 7 9 :: [] ∧ (mid 2 []).idx + 1 = 3 ∧ (mid 3 []).idx + 1 = 4 ∧
    (mid 16 []).idx + 1 ≠ 3 ∧ (mid 16 []).idx + 1 ≠ 4 := by decide
theorem wit_ReadingIsBigEndian : (mid 2 [.byte 1 8, .byte 2 9]).st = .inData ∧
    (mid 2 [.byte 1 8, .byte 2 9]).idx = 2 ∧ (mid 2 [.byte 1 8, .byte 2 9]).val = 0 ∧
    (mid 2 [.byte 1 8, .byte 2 9]).len = 17 ∧
    (mid 2 [.byte 1 8, .byte 2 9]).inputs = .byte 1 8 :: .byte 2 9 :: [] := by decide
theorem wit_StateGraphIsComplete : (mid 16 [.byte 7 9]).inputs = .byte 7 9 :: [] ∧
    (mid 16 [.ctrlw 7]).inputs = .ctrlw 7 :: [] ∧ (mid 16 [.reset]).inputs = .reset :: [] := ⟨rfl, rfl, rfl⟩
/-- One state for each clause: outside InData, at LEN, at 3 and at 4 with CTRL = 150, elsewhere, and CTRL = 0. -/
theorem wit_OutgoingByteOfEveryStep :
    (∀ s ∈ [pend State.reset [.byte 7 9], mid 16 [.byte 7 9], mid 2 [.byte 7 9], mid 3 [.byte 7 9], mid 4 [.byte 7 9],
      pend (at' .inData 2 0 0 0) [.byte 7 9]], s.inputs = .byte 7 9 :: []) ∧
    State.reset.st ≠ .inData ∧
    ((mid 16 []).st = .inData ∧ (mid 16 []).idx + 1 = (mid 16 []).len) ∧
    ((mid 2 []).st = .inData ∧ (mid 2 []).idx + 1 ≠ (mid 2 []).len ∧ (mid 2 []).idx + 1 = 3 ∧ (mid 2 []).ctrl ≠ 0) ∧
    ((mid 3 []).st = .inData ∧ (mid 3 []).idx + 1 ≠ (mid 3 []).len ∧ (mid 3 []).idx + 1 = 4 ∧ (mid 3 []).ctrl ≠ 0) ∧
    ((mid 4 []).st = .inData ∧ (mid 4 []).idx + 1 ≠ (mid 4 []).len ∧ (mid 4 []).idx + 1 ≠ 3 ∧
      (mid 4 []).idx + 1 ≠ 4) ∧
    ((at' .inData 2 0 0 0).st = .inData ∧ (at' .inData 2 0 0 0).idx + 1 ≠ (at' .inData 2 0 0 0).len ∧
      (at' .inData 2 0 0 0).ctrl = 0) := by decide
theorem wit_ChecksumTakesTheOutgoingByte :
    ((pend State.reset [.byte 0x16 9]).inputs = .byte 0x16 9 :: [] ∧ (pend State.reset [.byte 0x16 9]).st = .awaitHeader) ∧
    ((pend State.reset [.byte 0x15 9]).inputs = .byte 0x15 9 :: [] ∧ (0x15 : Byte) ≠ 0x16) ∧
    ((mid 16 [.byte 7 9]).inputs = .byte 7 9 :: [] ∧ (mid 16 [.byte 7 9]).st = .inData ∧
      (mid 16 [.byte 7 9]).idx + 1 = (mid 16 [.byte 7 9]).len) := by decide
theorem wit_OneByteOutPerByteIn : ∃ u, stepN 1 (pend State.reset [.byte 0x16 9]) = .next u := ⟨_, rfl⟩
theorem wit_OperationsWriteOnlyTheListedRegisters :
    (ruleApplies (.datHi 7) (mid 2 []) ∧ ∃ t, exec (.datHi 7) (mid 2 []) = .next t) ∧
    (ruleApplies (.datLo 7) (mid 3 []) ∧ ∃ t, exec (.datLo 7) (mid 3 []) = .next t) ∧
    (ruleApplies (.datPass 16 7) (mid 15 []) ∧ ∃ t, exec (.datPass 16 7) (mid 15 []) = .next t) ∧
    (ruleApplies (.datEnd 7) (mid 16 []) ∧ ∃ t, exec (.datEnd 7) (mid 16 []) = .next t) ∧
    (ruleApplies .reset (mid 16 []) ∧ ∃ t, exec .reset (mid 16 []) = .next t) :=
  ⟨⟨by simp [ruleApplies, mid, at'], _, rfl⟩, ⟨by simp [ruleApplies, mid, at'], _, rfl⟩,
    ⟨by simp [ruleApplies, mid, at'], _, rfl⟩, ⟨rfl, _, rfl⟩, ⟨trivial, _, rfl⟩⟩
theorem wit_RegistersAreWrittenByTheirOwners : (∃ u, step (mid 16 [.byte 7 9]) = .next u) ∧
    (∃ u, step (mid 16 [.ctrlw 7]) = .next u) ∧ 7 < 2 ^ (mid 16 []).params.ctrlW ∧
    (∃ u, step (mid 16 [.reset]) = .next u) ∧
    ∃ u, step (mid 16 []) = .next u := ⟨⟨_, rfl⟩, ⟨_, rfl⟩, by decide, ⟨_, rfl⟩, _, rfl⟩
/-- Two states that differ in COUNT, TSTAMP, the bytes sent and what is pending; at a frame's end and elsewhere. -/
theorem wit_ByteStepIsPure : ∀ i ∈ [(15 : Idx), 16],
    let s := mid i [.byte 7 9]
    let s' := { mid i [.byte 7 9, .reset] with count := 1, tstamp := 2, tx := [] }
    s.inputs = .byte 7 9 :: [] ∧ s'.inputs = .byte 7 9 :: [.reset] ∧ s.st = s'.st ∧ s.idx = s'.idx ∧
      s.val = s'.val ∧ s.csum = s'.csum ∧ s.len = s'.len ∧ s.cmd = s'.cmd ∧ s.ctrl = s'.ctrl ∧
      s.params = s'.params := by decide
theorem wit_CtrlWriteReplacesCtrl : (mid 3 [.ctrlw 0x0102]).inputs = .ctrlw 0x0102 :: [] ∧
    (Instr.ctrlWrite 0xFFFFFFFF).wellFormed (mid 3 []).params = true := by decide
theorem wit_CtrlPersistsUntilOverwritten :
    let q := [.byte 7 9, .byte 8 9, .ctrlw 5]
    (∀ ev ∈ q.take 1, evCode ev ≠ 1 ∧ evCode ev ≠ 2) ∧ 0x0102 < 2 ^ (mid 1 []).params.ctrlW ∧ 0x0102 ≠ 0 ∧
    (∃ s₁ u, step (mid 1 (.ctrlw 0x0102 :: q)) = .next s₁ ∧ stepN 1 s₁ = .next u ∧
      u.inputs = .byte 8 9 :: [.ctrlw 5] ∧ u.st = .inData ∧ u.idx + 1 ≠ u.len ∧ u.idx + 1 = 3) ∧
    ∃ s₁ u, step (mid 2 (.ctrlw 0x0102 :: q)) = .next s₁ ∧ stepN 1 s₁ = .next u ∧
      u.inputs = .byte 8 9 :: [.ctrlw 5] ∧ u.st = .inData ∧ u.idx + 1 ≠ u.len ∧ u.idx + 1 = 4 :=
  ⟨by decide, by decide, by decide, ⟨_, _, rfl, rfl, rfl, rfl, by decide, rfl⟩, _, _, rfl, rfl, rfl, rfl, by decide, rfl⟩
theorem wit_CtrlActsAtPositionsThreeAndFourOnly : (mid 16 [.byte 7 9]).inputs = .byte 7 9 :: [] ∧
    ¬ ((mid 16 []).st = .inData ∧ ((mid 16 []).idx + 1 = 3 ∨ (mid 16 []).idx + 1 = 4)) ∧
    (∀ i ∈ [(2 : Idx), 3], let s := pend (at' .inData i 0 0 0) [.byte 7 9]
      s.inputs = .byte 7 9 :: [] ∧ s.st = .inData ∧ s.idx + 1 ≠ s.len ∧ s.ctrl = 0) ∧
    (pend (at' .inData 2 0 0 0) []).idx + 1 = 3 ∧ (pend (at' .inData 3 0 0 0) []).idx + 1 = 4 := by decide
theorem wit_CommitIsOneWriteWithOneStrobe : (∃ u, step (mid 16 [.byte 7 9]) = .next u ∧ u.upd = true) ∧
    (∃ u, step (mid 15 [.byte 7 9]) = .next u ∧ u.upd = false) ∧
    ∀ rest, (mid 15 [.byte 7 9]).inputs ≠ .reset :: rest :=
  ⟨⟨_, rfl, rfl⟩, ⟨_, rfl, rfl⟩, by simp [mid]⟩
/-- The least width, and the least and the greatest value of it. -/
theorem wit_OverrideBytesAreQuotientAndRemainder : 16 ≤ 16 ∧ 0 < 2 ^ 16 ∧ 65535 < 2 ^ 16 := by decide
theorem wit_FreshnessIsAStrictModularAge :
    { State.reset with tstamp := 0xFFFFFFFF }.tstamp < 2 ^ State.reset.params.tsW := by decide
theorem wit_ResetReadingCountsAsFresh : 0xFFFFFFFF < 2 ^ Config.defaults.tsW ∧ 0 < 2 ^ (Params.mk 16 0).tsW := by decide
theorem wit_ResetHasParserInv : Config.defaults.legal = true ∧ (Params.mk 16 0).legal = true := by decide
/-- A step of every kind of event, on a machine whose widths are not the defaults. -/
theorem wit_WidthsAreFixed : (∃ t, exec (.ctrlWrite 7) (State.resetWith ⟨17, 5⟩) = .next t) ∧
    ∃ u, stepN 4 (pend (State.resetWith ⟨17, 5⟩) [.byte 0x16 9, .ctrlw 7, .reset]) = .next u := ⟨⟨_, rfl⟩, _, rfl⟩
theorem wit_ResetWritesAllNineRegisters : (mid 9 [.reset]).inputs = .reset :: [] := rfl
theorem wit_FirstByteAfterResetIsAHeaderTest : (mid 9 [.reset, .byte 7 9]).inputs = .reset :: [.byte 7 9] := rfl
theorem wit_StepKeepsParserInv : ParserInv (mid 16 [.byte 7 9]) ∧ ParserInv (mid 1 [.byte 7 9]) ∧
    (∃ t, step (mid 16 [.byte 7 9]) = .next t) ∧ ∃ t, step (mid 1 [.byte 7 9]) = .next t :=
  ⟨(wit_mid_inv _).1, (wit_mid_inv _).2, ⟨_, rfl⟩, _, rfl⟩
theorem wit_FrameEndLeavesTheClosedState : ParserInv (mid 16 [.byte 7 9]) ∧ (mid 16 [.byte 7 9]).st = .inData ∧
    (mid 16 [.byte 7 9]).idx + 1 = (mid 16 [.byte 7 9]).len ∧ (mid 16 [.byte 7 9]).inputs = .byte 7 9 :: [] :=
  ⟨(wit_mid_inv _).1, rfl, rfl, rfl⟩

/-- A frame with zeros in data positions 1 to 16, CTRL written between positions 3 and 4 (40_step.md section 3). -/
def torn (x : Byte) : List Chunk :=
  [ch 0x16, ch 0x11, ch 0x0B, ch 0, ch 0, ch 1, ⟨[0x0102], 0x2C, 9⟩] ++ List.replicate 12 (ch 0) ++ [ch x]

theorem wit_WholeFrameEffect : (at' .awaitHeader 17 0 5 0xAABB).st = .awaitHeader ∧
    (List.replicate 12 (0 : Byte)).length = 12 ∧
    (torn 0xA1).map Chunk.byte =
      [0x16, 0x11, 0x0B, 0, 0, 1, 0x2C] ++ List.replicate 12 (0 : Byte) ++ [0xA1] ∧
    (torn 0xA1).getLast?.map Chunk.time = some 9 ∧
    (pend (at' .awaitHeader 17 0 5 0xAABB) (stimulus (torn 0xA1))).inputs = stimulus (torn 0xA1) ++ [] := by decide
/-- No data byte yet, and all sixteen. -/
theorem wit_FrameInProgress : State.reset.st = .awaitHeader ∧
    ([ch 0x16, ch 0x11, ch 0x0B].map Chunk.byte = [0x16, 0x11, 0x0B] ++ [] ∧ ([] : List Byte).length ≤ 16) ∧
    (((torn 0).take 19).map Chunk.byte = [0x16, 0x11, 0x0B] ++ ([0, 0, 1, 0x2C] ++ List.replicate 12 0) ∧
      ([0, 0, 1, 0x2C] ++ List.replicate 12 (0 : Byte)).length ≤ 16) ∧
    (pend State.reset (stimulus ((torn 0).take 19) ++ [.reset])).inputs =
      stimulus ((torn 0).take 19) ++ [.reset] := by decide
theorem wit_OutgoingFrameSumsToZero : State.reset.st = .awaitHeader ∧
    ([0, 0, 1, 0x2C] ++ List.replicate 12 (0 : Byte)).length = 16 ∧
    (torn 0x55).map Chunk.byte = [0x16, 0x11, 0x0B] ++ ([0, 0, 1, 0x2C] ++ List.replicate 12 0) ++ [0x55] ∧
    (pend State.reset (stimulus (torn 0x55))).inputs = stimulus (torn 0x55) ++ [] := by decide
theorem wit_ValidFrameIsRelayedUnchanged : State.reset.st = .awaitHeader ∧ State.reset.ctrl = 0 ∧
    (List.replicate 16 (0xFF : Byte)).length = 16 ∧
    (pend State.reset ((frame (List.replicate 16 0xFF)).map (fun b => .byte b 9))).inputs =
      (frame (List.replicate 16 0xFF)).map (fun b => .byte b 9) ++ [] := by decide
/-- A byte short of the end, and the last byte. -/
theorem wit_FrameEndsByCountingOnly :
    (ParserInv (mid 1 (stimulus (List.replicate 15 (ch 7)))) ∧ (List.replicate 15 (ch 7)).length + 1 < 17) ∧
    (ParserInv (mid 1 (stimulus (List.replicate 16 (ch 7)))) ∧ (List.replicate 16 (ch 7)).length + 1 = 17) ∧
    (mid 1 (stimulus (List.replicate 16 (ch 7)))).st = .inData ∧
    (mid 1 (stimulus (List.replicate 16 (ch 7)))).inputs = stimulus (List.replicate 16 (ch 7)) ++ [] :=
  ⟨⟨(wit_mid_inv _).2, by decide⟩, ⟨(wit_mid_inv _).2, by decide⟩, rfl, by decide⟩
theorem wit_ClockReachesTheTimestampOnly :
    let s := mid 16 [.byte 7 9, .reset]
    let s' := { s with now := 3, tstamp := 4, inputs := [.byte 7 10, .reset] }
    s' = { s with now := s'.now, tstamp := s'.tstamp, inputs := s'.inputs } ∧
    List.Forall₂ sameButReading s.inputs s'.inputs ∧
    ∃ u, stepN 2 s = .next u :=
  ⟨rfl, .cons ⟨rfl, rfl, rfl⟩ (.cons ⟨rfl, rfl, rfl⟩ .nil), _, rfl⟩
theorem wit_LaterEventsHaveNoInfluence : (mid 16 [.byte 7 9, .reset]).inputs = [.byte 7 9] ++ [.reset] ∧
    ∃ u, stepN [Event.byte 7 9].length (mid 16 [.byte 7 9, .reset]) = .next u := ⟨rfl, _, rfl⟩
theorem wit_CoincidentPortsAreOrdered : (⟨true, true, 7, true, 5, 9⟩ : PortsIn).rst = true ∧
    ((⟨false, false, 7, true, 5, 9⟩ : PortsIn).rst = false ∧ (⟨false, false, 7, true, 5, 9⟩ : PortsIn).rxValid = false) ∧
    ((⟨false, true, 7, true, 5, 9⟩ : PortsIn).rst = false ∧ (⟨false, true, 7, true, 5, 9⟩ : PortsIn).rxValid = true) :=
  by decide

end Sys2Proof.Tests
end

section
/-! The byte step as a function of the parser's registers, CTRL, `now` and the byte (00_scope.md R9): two states that agree
on these stay in agreement through every update a byte operation is made of, up to the byte that it sends. -/

namespace Sys2Proof.Machine

/-- The event key reads ST and IDX alone (30_encoding.md R51). -/
theorem selectInstr_congr {s s' : State} (hst : s.st = s'.st) (hidx : s.idx = s'.idx) (ev : Event) :
    selectInstr s ev = selectInstr s' ev := by
  unfold selectInstr eventKey
  rw [hst, hidx]

/-- A BYTE event selects a byte operation (30_encoding.md R53). -/
theorem exists_selectInstr_byte (s : State) (b : Byte) (t : Nat) :
    ∃ i : Instr, selectInstr s (.byte b t) = .ok i ∧ i.isByteOp = true := by
  refine ⟨_, select_byte s b t, ?_⟩
  cases s.st with
  | awaitHeader => split_ifs <;> rfl
  | awaitLength => split_ifs <;> rfl
  | awaitCommand => split_ifs <;> rfl
  | inData => split_ifs <;> rfl

/-- `w` and `w'` stand at the same point of a byte step begun in `s` and `s'`, before its byte is sent: they agree on all
that the step reads and on the optional update, which is in both or in neither. -/
structure AlikeFrom (s s' w w' : State) : Prop where
  st : w.st = w'.st
  idx : w.idx = w'.idx
  val : w.val = w'.val
  csum : w.csum = w'.csum
  len : w.len = w'.len
  cmd : w.cmd = w'.cmd
  ctrl : w.ctrl = w'.ctrl
  now : w.now = w'.now
  upd : w.upd = w'.upd
  tx_left : w.tx = s.tx
  tx_right : w'.tx = s'.tx
  updated : w.upd = true → w.count = w'.count ∧ w.tstamp = w'.tstamp
  held : w.upd = false → w.count = s.count ∧ w.tstamp = s.tstamp ∧ w'.count = s'.count ∧ w'.tstamp = s'.tstamp

/-- Two outcomes that send the same byte from states that are alike. -/
def SendAlike (s s' : State) (o o' : Host.Outcome State Fault Refusal) : Prop :=
  ∃ (out : Byte) (w w' : State), AlikeFrom s s' w w' ∧ o = .next (sendByte out w) ∧ o' = .next (sendByte out w')

namespace AlikeFrom

variable {s s' w w' : State}

theorem abandonFrame (h : AlikeFrom s s' w w') : AlikeFrom s s' (abandonFrame w) (abandonFrame w') :=
  { h with st := rfl }

theorem startFrame (h : AlikeFrom s s' w w') : AlikeFrom s s' (startFrame w) (startFrame w') :=
  { h with st := rfl, idx := rfl, val := rfl, csum := rfl }

theorem recordLength (h : AlikeFrom s s' w w') (b : Byte) :
    AlikeFrom s s' (recordLength b w) (recordLength b w') :=
  { h with len := rfl, st := rfl }

theorem recordCommand (h : AlikeFrom s s' w w') (b : Byte) :
    AlikeFrom s s' (recordCommand b w) (recordCommand b w') :=
  { h with cmd := rfl, st := rfl }

theorem advanceIndex (h : AlikeFrom s s' w w') : AlikeFrom s s' (advanceIndex w) (advanceIndex w') :=
  { h with idx := congrArg (· + 1) h.idx }

theorem accumulate (h : AlikeFrom s s' w w') (d : Val) : AlikeFrom s s' (accumulate d w) (accumulate d w') :=
  { h with val := congrArg (· + d) h.val }

/-- The update's two values, VAL and `now`, are among what the states agree on. -/
theorem commit (h : AlikeFrom s s' w w') : AlikeFrom s s' (commit w.val w.now w) (commit w'.val w'.now w') :=
  { h with
    upd := rfl
    updated := fun _ => ⟨h.val, h.now⟩
    held := fun hf => absurd hf (by simp) }

/-- Whether there is an update is decided by CMD, on which the states agree. -/
theorem closeFrame (h : AlikeFrom s s' w w') : AlikeFrom s s' (closeFrame w) (closeFrame w') := by
  unfold Machine.closeFrame
  rw [h.cmd]
  split
  · exact h.commit.abandonFrame
  · exact h.abandonFrame

/-- The end test compares IDX with LEN, and the trailer is computed from CSUM. -/
theorem finishData (h : AlikeFrom s s' w w') {out out' : Byte} (hout : out = out') :
    SendAlike s s' (.next (finishData out w)) (.next (finishData out' w')) := by
  subst hout
  by_cases hend : w.idx = w.len
  · have hend' : w'.idx = w'.len := by rw [← h.idx, ← h.len, hend]
    rw [finishData_of_end hend, finishData_of_end hend', h.csum]
    exact ⟨_, _, _, h.closeFrame, rfl, rfl⟩
  · have hend' : w'.idx ≠ w'.len := by rwa [← h.idx, ← h.len]
    rw [finishData_of_not_end hend, finishData_of_not_end hend']
    exact ⟨_, _, _, h, rfl, rfl⟩

/-- Every byte operation, on states that are alike, sends the same byte from states that are alike. -/
theorem exec_byteOp (h : AlikeFrom s s' w w') {i : Instr} (hi : i.isByteOp = true) :
    SendAlike s s' (exec i w) (exec i w') := by
  cases i with
  | reset => cases hi
  | ctrlWrite => cases hi
  | hdrMatch => exact ⟨_, _, _, h.startFrame, rfl, rfl⟩
  | hdrPass b => exact ⟨_, _, _, h.abandonFrame, rfl, rfl⟩
  | lenMatch => exact ⟨_, _, _, h.recordLength _, rfl, rfl⟩
  | lenAbort b => exact ⟨_, _, _, h.abandonFrame, rfl, rfl⟩
  | cmdMatch => exact ⟨_, _, _, h.recordCommand _, rfl, rfl⟩
  | cmdAbort b => exact ⟨_, _, _, h.abandonFrame, rfl, rfl⟩
  | datHi b => exact (h.advanceIndex.accumulate _).finishData (congrArg (outAtHi · b) h.ctrl)
  | datLo b => exact (h.advanceIndex.accumulate _).finishData (congrArg (outAtLo · b) h.ctrl)
  | datEnd b =>
    change SendAlike s s' (execDatEnd b w) (execDatEnd b w')
    rw [execDatEnd_eq, execDatEnd_eq]
    exact h.advanceIndex.finishData rfl
  | datPass n b => exact h.advanceIndex.finishData rfl

end AlikeFrom

/-- Settles O32: both states take the byte and perform the same operation, which keeps them alike up to the byte sent. -/
theorem byteStepIsPure : Obligations.ByteStepIsPure := by
  intro s s' b t rest rest' hin hin' hst hidx hval hcsum hlen hcmd hctrl hparams
  obtain ⟨i, hsel, hbyte⟩ := exists_selectInstr_byte s b t
  have hsel' : selectInstr s' (.byte b t) = .ok i := selectInstr_congr hst hidx _ ▸ hsel
  have htaken : AlikeFrom s s' (accept (.byte b t) rest s) (accept (.byte b t) rest' s') :=
    { st := hst, idx := hidx, val := hval, csum := hcsum, len := hlen, cmd := hcmd, ctrl := hctrl
      now := congrArg (timeBits · t) hparams
      upd := rfl, tx_left := rfl, tx_right := rfl
      updated := fun hu => absurd hu (by simp [accept])
      held := fun _ => ⟨rfl, rfl, rfl, rfl⟩ }
  obtain ⟨out, w, w', h, hexec, hexec'⟩ := htaken.exec_byteOp hbyte
  exact ⟨sendByte out w, sendByte out w', out, (step_ok hin hsel).trans hexec, (step_ok hin' hsel').trans hexec',
    h.st, h.idx, h.val, congrArg (· + out) h.csum, h.len, h.cmd,
    congrArg (· ++ [out]) h.tx_left, congrArg (· ++ [out]) h.tx_right, h.upd, h.updated, h.held⟩

end Sys2Proof.Machine
end

section
/-! The operation map on keys (30_encoding.md R52): the row that is selected, for each kind of event. -/

namespace Sys2Proof.Machine

/-- The first row of the order whose test holds is the one selected. -/
theorem selectRow_of_first {k : Key} {r : Row} {before after : List Row} (horder : rowOrder = before ++ r :: after)
    (hr : k &&& rowMask r = rowMatch r) (hbefore : ∀ q ∈ before, k &&& rowMask q ≠ rowMatch q) :
    selectRow k = some r := by
  rw [selectRow, List.find?_eq_some_iff_append]
  exact ⟨beq_iff_eq.mpr hr, before, after, horder, fun q hq => by simpa [rowHolds] using hbefore q hq⟩

/-- EV = 2 selects row 1, whatever the other fields are. -/
theorem selectRow_resetKey (f : StCode) (n : Idx) (b : Byte) : selectRow (mkKey 2 f n b) = some .reset := by
  simp [selectRow, rowOrder, rowHolds_mkKey]

/-- EV = 1 selects row 2, whatever the other fields are. -/
theorem selectRow_ctrlWriteKey (f : StCode) (n : Idx) (b : Byte) :
    selectRow (mkKey 1 f n b) = some .ctrlWrite := by
  simp [selectRow, rowOrder, rowHolds_mkKey]

/-- EV = 0: the operation by STF and then by B or N, its operands the key's own fields. -/
theorem decodeKey_byteKey (f : StCode) (n : Idx) (b : Byte) (w : Nat) :
    decodeKey (mkKey 0 f n b) w = .ok (
      if f = 0 then (if b = Config.header then .hdrMatch else .hdrPass b)
      else if f = 1 then (if b = Config.length then .lenMatch else .lenAbort b)
      else if f = 2 then (if b = Config.command then .cmdMatch else .cmdAbort b)
      else if n = Config.posHi then .datHi b
      else if n = Config.posLo then .datLo b
      else if n = Config.length then .datEnd b
      else .datPass n b) := by
  rw [decodeKey_of_selectRow (selectRow_byte f n b)]
  split_ifs <;> simp [rowInstr]

/-- Settles O2: the table is evaluated, and a key is split by its EV field, each value of which has its own rows. -/
theorem operationMapByCondition : Obligations.OperationMapByCondition := by
  refine ⟨by decide, fun k w r before after horder hr hbefore => ?_, fun k w hk => ?_⟩
  · exact decodeKey_of_selectRow (selectRow_of_first horder hr hbefore)
  · rw [← mkKey_fields k] at hk ⊢
    simp only [keyEv_mkKey, keyStf_mkKey, keyN_mkKey, keyB_mkKey] at hk ⊢
    have hev : keyEv k = 0 ∨ keyEv k = 1 ∨ keyEv k = 2 := by
      generalize keyEv k = e at hk
      revert e
      decide
    rcases hev with h | h | h <;> rw [h]
    · exact decodeKey_byteKey _ _ _ w
    · exact decodeKey_of_selectRow (selectRow_ctrlWriteKey _ _ _)
    · exact decodeKey_of_selectRow (selectRow_resetKey _ _ _)

end Sys2Proof.Machine
end

section
/-! An InData step as one function of the incremented index (42_data.md R78 to R82), and the reading that the steps for
positions 3 and 4 assemble (30_encoding.md R48). -/

namespace Sys2Proof.Machine

/-- What the byte at data position `n` adds to VAL (42_data.md R78). -/
def dataTerm (n : Idx) (b : Byte) : Val :=
  if n = Config.posHi then hiTerm b else if n = Config.posLo then loTerm b else 0

/-- What is sent for the byte at data position `n` when the frame does not end there (42_data.md R78). -/
def dataOut (n : Idx) (c : Nat) (b : Byte) : Byte :=
  if n = Config.posHi then outAtHi c b else if n = Config.posLo then outAtLo c b else b

theorem accumulate_zero (s : State) : accumulate 0 s = s := by
  simp [accumulate]

/-- Every InData step, whichever of the four operations it is: increment, VAL's term, then the end test. -/
theorem step_inData {s : State} {b : Byte} {t : Nat} {rest : List Event} (hst : s.st = .inData)
    (hin : s.inputs = .byte b t :: rest) :
    step s = .next (finishData (dataOut (s.idx + 1) s.ctrl b)
      (accumulate (dataTerm (s.idx + 1) b) (advanceIndex (accept (.byte b t) rest s)))) := by
  rw [step_byte hin, hst]
  unfold dataOut dataTerm
  by_cases hhi : s.idx + 1 = Config.posHi
  · simp only [hhi, if_true]
    rfl
  · by_cases hlo : s.idx + 1 = Config.posLo
    · simp only [hlo, posLo_ne_posHi, if_true, if_false]
      rfl
    · simp only [hhi, hlo, if_false, accumulate_zero]
      split_ifs
      · exact execDatEnd_eq b _
      · rfl

/-- The same where the frame does not end: the byte is sent and nothing is committed. -/
theorem step_inData_of_not_end {s : State} {b : Byte} {t : Nat} {rest : List Event} (hst : s.st = .inData)
    (hin : s.inputs = .byte b t :: rest) (hend : s.idx + 1 ≠ s.len) :
    step s = .next (sendByte (dataOut (s.idx + 1) s.ctrl b)
      (accumulate (dataTerm (s.idx + 1) b) (advanceIndex (accept (.byte b t) rest s)))) :=
  (step_inData hst hin).trans (congrArg _ (finishData_of_not_end hend _))

/-- What such a step leaves in the registers that the data phase counts and accumulates in. -/
theorem exists_step_inData_of_not_end {s : State} {b : Byte} {t : Nat} {rest : List Event} (hst : s.st = .inData)
    (hin : s.inputs = .byte b t :: rest) (hend : s.idx + 1 ≠ s.len) :
    ∃ u, step s = .next u ∧ u.st = .inData ∧ u.idx = s.idx + 1 ∧ u.val = s.val + dataTerm (s.idx + 1) b ∧
      u.len = s.len ∧ u.inputs = rest :=
  ⟨_, step_inData_of_not_end hst hin hend, hst, rfl, rfl, rfl, rfl⟩

/-- The same at LEN: the frame is closed with the trailer, whatever the byte is. -/
theorem step_inData_of_end {s : State} {b : Byte} {t : Nat} {rest : List Event} (hst : s.st = .inData)
    (hin : s.inputs = .byte b t :: rest) (hend : s.idx + 1 = s.len) :
    step s = .next (sendByte (trailerOf s.csum)
      (closeFrame (accumulate (dataTerm (s.idx + 1) b) (advanceIndex (accept (.byte b t) rest s))))) :=
  (step_inData hst hin).trans (congrArg _ (finishData_of_end hend _))

theorem toNat_append_bytes (b c : Byte) : (b ++ c : Val).toNat = b.toNat * 256 + c.toNat := by
  rw [BitVec.toNat_append, ← Nat.shiftLeft_add_eq_or_of_lt c.isLt, Nat.shiftLeft_eq]
  rfl

/-- The two terms of the reading do not overlap (40_step.md R66): their sum is the two bytes, big-endian. -/
theorem hiTerm_add_loTerm (b c : Byte) : hiTerm b + loTerm c = b ++ c := by
  apply BitVec.eq_of_toNat_eq
  have hb : b.toNat < 256 := b.isLt
  have hc : c.toNat < 256 := c.isLt
  have hhi : (hiTerm b).toNat = b.toNat * 256 := by
    rw [hiTerm, BitVec.toNat_mul, BitVec.toNat_setWidth_of_le (by decide)]
    exact Nat.mod_eq_of_lt (show b.toNat * 256 < 65536 by omega)
  have hlo : (loTerm c).toNat = c.toNat := BitVec.toNat_setWidth_of_le (by decide)
  rw [toNat_append_bytes, BitVec.toNat_add, hhi, hlo]
  exact Nat.mod_eq_of_lt (show b.toNat * 256 + c.toNat < 65536 by omega)

/-- Settles O25: the two steps add the high and the low term to VAL = 0, and neither term reads CTRL. -/
theorem readingIsBigEndian : Obligations.ReadingIsBigEndian := by
  intro s b3 b4 t₃ t₄ rest hst hidx hval hlen hin
  obtain ⟨v, hstep, hvst, hvidx, hvval, hvlen, hvin⟩ :=
    exists_step_inData_of_not_end hst hin (by rw [hidx, hlen]; decide)
  obtain ⟨u, hstep', -, huidx, huval, -, -⟩ :=
    exists_step_inData_of_not_end hvst hvin (by rw [hvidx, hvlen, hidx, hlen]; decide)
  have hread : u.val = b3 ++ b4 := by
    rw [huval, hvval, hvidx, hidx, hval, ← hiTerm_add_loTerm]
    exact congrArg (· + loTerm b4) (BitVec.zero_add (hiTerm b3))
  refine ⟨u, (stepN_succ hstep).trans (stepN_succ hstep'), by rw [huidx, hvidx, hidx]; rfl, hread, ?_, ?_, ?_⟩ <;>
    rw [hread]
  · exact toNat_append_bytes b3 b4
  · exact BitVec.extractLsb'_append_eq_left
  · exact BitVec.extractLsb'_append_eq_right

end Sys2Proof.Machine
end

section
/-! The bytes sent for one frame and the running checksum over them (30_encoding.md R50), with control writes anywhere
between the bytes. -/

namespace Sys2Proof.Machine

/-! ### Runs -/

/-- A run over a stimulus begins with the byte of its first chunk. -/
theorem stepN_stimulus_cons {c : Chunk} {cs : List Chunk} {s u : State} {rest : List Event}
    (h : s.inputs = stimulus (c :: cs) ++ rest)
    (hu : step { s with ctrl := lastWrite s.params s.ctrl c.ctrlWrites
                        inputs := .byte c.byte c.time :: (stimulus cs ++ rest) } = .next u) :
    stepN (stimulus (c :: cs)).length s = stepN (stimulus cs).length u := (stimulus_run h hu).1

/-- A run over a stimulus is a run over its first chunks and then over the others. -/
theorem stepN_stimulus_append {as bs : List Chunk} {s v : State} (h : stepN (stimulus as).length s = .next v) :
    stepN (stimulus (as ++ bs)).length s = stepN (stimulus bs).length v := by
  rw [stimulus_append, List.length_append, stepN_add h]

/-! ### The head of a frame -/

section head

variable {s : State} {b : Byte} {t : Nat} {rest : List Event}

theorem step_hdrMatch (hst : s.st = .awaitHeader) (hin : s.inputs = .byte b t :: rest) (hb : b = Config.header) :
    step s = .next (sendByte Config.header (startFrame (accept (.byte b t) rest s))) := by
  rw [step_byte hin, hst]
  exact congrArg (exec · _) (if_pos hb)

theorem step_lenMatch (hst : s.st = .awaitLength) (hin : s.inputs = .byte b t :: rest) (hb : b = Config.length) :
    step s = .next (sendByte Config.length (recordLength Config.length (accept (.byte b t) rest s))) := by
  rw [step_byte hin, hst]
  exact congrArg (exec · _) (if_pos hb)

theorem step_cmdMatch (hst : s.st = .awaitCommand) (hin : s.inputs = .byte b t :: rest) (hb : b = Config.command) :
    step s = .next (sendByte Config.command (recordCommand Config.command (accept (.byte b t) rest s))) := by
  rw [step_byte hin, hst]
  exact congrArg (exec · _) (if_pos hb)

end head

/-! ### Between the head and the trailer -/

/-- A frame is in progress for which `sent` has been transmitted, after the bytes `base` from before it; CSUM is the sum
of `sent`. -/
structure InFrame (base sent : List Byte) (s : State) : Prop where
  st : s.st = .inData
  len : s.len = Config.length
  idx : s.idx.toNat + 3 = sent.length
  tx : s.tx = base ++ sent
  csum : s.csum = byteSum sent

namespace InFrame

variable {base sent : List Byte} {s : State}

/-- It does not depend on CTRL or on what is pending. -/
theorem with_ctrl_inputs (h : InFrame base sent s) (c : Nat) (evs : List Event) :
    InFrame base sent { s with ctrl := c, inputs := evs } :=
  ⟨h.st, h.len, h.idx, h.tx, h.csum⟩

theorem toNat_idx_add_one (h : InFrame base sent s) (hsent : sent.length ≤ 19) :
    (s.idx + 1).toNat = sent.length - 2 := by
  have hidx := h.idx
  rw [BitVec.toNat_add_of_lt (show s.idx.toNat + 1 < 256 by omega), show (1 : Idx).toNat = 1 from rfl]
  omega

/-- The next index is LEN exactly when the 19 bytes before the trailer are sent. -/
theorem idx_add_one_eq_len_iff (h : InFrame base sent s) (hsent : sent.length ≤ 19) :
    s.idx + 1 = s.len ↔ sent.length = 19 := by
  have hidx := h.idx
  rw [h.len, ← BitVec.toNat_inj, h.toNat_idx_add_one hsent, show Config.length.toNat = 17 from rfl]
  omega

/-- A byte before the trailer's place sends one more byte of the frame. -/
theorem exists_step_data (h : InFrame base sent s) (hsent : sent.length < 19) {b : Byte} {t : Nat}
    {rest : List Event} (hin : s.inputs = .byte b t :: rest) :
    ∃ (out : Byte) (u : State), step s = .next u ∧ InFrame base (sent ++ [out]) u ∧ u.inputs = rest := by
  have hend : s.idx + 1 ≠ s.len := by rw [Ne, h.idx_add_one_eq_len_iff hsent.le]; omega
  refine ⟨dataOut (s.idx + 1) s.ctrl b, _, step_inData_of_not_end h.st hin hend, ⟨h.st, h.len, ?_, ?_, ?_⟩, rfl⟩
  · have hidx := h.idx
    have := h.toNat_idx_add_one hsent.le
    simp only [sendByte_idx, accumulate_idx, advanceIndex_idx, accept_idx, List.length_append, List.length_singleton]
    omega
  · simp [h.tx]
  · simp [h.csum, byteSum_append]

/-- The byte in the trailer's place sends the trailer. -/
theorem exists_step_trailer (h : InFrame base sent s) (hsent : sent.length = 19) {b : Byte} {t : Nat}
    {rest : List Event} (hin : s.inputs = .byte b t :: rest) :
    ∃ u, step s = .next u ∧ u.tx = base ++ sent ++ [trailerOf s.csum] := by
  have hend : s.idx + 1 = s.len := (h.idx_add_one_eq_len_iff hsent.le).mpr hsent
  exact ⟨_, step_inData_of_end h.st hin hend, by simp [h.tx]⟩

/-- A run over data bytes before the trailer sends one byte for each. -/
theorem exists_run_data {cs : List Chunk} {rest : List Event} (h : InFrame base sent s)
    (hsent : sent.length + cs.length ≤ 19) (hin : s.inputs = stimulus cs ++ rest) :
    ∃ (outs : List Byte) (u : State), stepN (stimulus cs).length s = .next u ∧ outs.length = cs.length ∧
      InFrame base (sent ++ outs) u ∧ u.inputs = rest := by
  induction cs generalizing s sent with
  | nil => exact ⟨[], s, rfl, rfl, by rwa [List.append_nil], hin⟩
  | cons c cs ih =>
    rw [List.length_cons] at hsent
    obtain ⟨out, v, hstep, hv, hvin⟩ := (h.with_ctrl_inputs _ _).exists_step_data (by omega) rfl
    obtain ⟨outs, u, hrun, hlen, hu, huin⟩ := ih hv (by rw [List.length_append, List.length_singleton]; omega) hvin
    rw [List.append_assoc] at hu
    exact ⟨out :: outs, u, (stepN_stimulus_cons hin hstep).trans hrun, congrArg (· + 1) hlen, hu, huin⟩

/-- The run over the last byte's chunk sends the trailer. -/
theorem exists_run_trailer {c : Chunk} {rest : List Event} (h : InFrame base sent s) (hsent : sent.length = 19)
    (hin : s.inputs = stimulus [c] ++ rest) :
    ∃ u, stepN (stimulus [c]).length s = .next u ∧ u.tx = base ++ sent ++ [trailerOf s.csum] := by
  obtain ⟨u, hstep, hu⟩ := (h.with_ctrl_inputs _ _).exists_step_trailer hsent rfl
  exact ⟨u, stepN_stimulus_cons hin hstep, hu⟩

end InFrame

/-- A run over the three bytes of a head puts the frame in progress. -/
theorem exists_run_head {s : State} {c₁ c₂ c₃ : Chunk} {rest : List Event} (hst : s.st = .awaitHeader)
    (h₁ : c₁.byte = Config.header) (h₂ : c₂.byte = Config.length) (h₃ : c₃.byte = Config.command)
    (hin : s.inputs = stimulus [c₁, c₂, c₃] ++ rest) :
    ∃ u, stepN (stimulus [c₁, c₂, c₃]).length s = .next u ∧ InFrame s.tx frameHead u ∧ u.inputs = rest := by
  exact ⟨_, (stepN_stimulus_cons hin (step_hdrMatch hst rfl h₁)).trans
    ((stepN_stimulus_cons rfl (step_lenMatch rfl rfl h₂)).trans
      (stepN_stimulus_cons rfl (step_cmdMatch rfl rfl h₃))), ⟨rfl, rfl, rfl, by simp [frameHead], rfl⟩, rfl⟩

/-- The chunks of a frame: three of the head, one for each data byte, one in the trailer's place. -/
theorem exists_frame_chunks {cs : List Chunk} {d : List Byte} {x : Byte}
    (h : cs.map Chunk.byte = frameX d x) :
    ∃ (c₁ c₂ c₃ : Chunk) (ds : List Chunk) (cx : Chunk), cs = [c₁, c₂, c₃] ++ ds ++ [cx] ∧
      c₁.byte = Config.header ∧ c₂.byte = Config.length ∧ c₃.byte = Config.command ∧ ds.length = d.length := by
  obtain ⟨body, last, rfl, hbody, hlast⟩ := List.map_eq_append_iff.mp h
  obtain ⟨head, ds, rfl, hhead, rfl⟩ := List.map_eq_append_iff.mp hbody
  obtain ⟨cx, rfl, -⟩ := List.map_eq_singleton_iff.mp hlast
  obtain ⟨c₁, tl₁, rfl, h₁, htl₁⟩ := List.map_eq_cons_iff.mp hhead
  obtain ⟨c₂, tl₂, rfl, h₂, htl₂⟩ := List.map_eq_cons_iff.mp htl₁
  obtain ⟨c₃, rfl, h₃⟩ := List.map_eq_singleton_iff.mp htl₂
  exact ⟨c₁, c₂, c₃, ds, cx, rfl, h₁, h₂, h₃, (List.length_map _).symm⟩

/-- Settles O49: the run is cut into head, data and trailer; CSUM is the sum of what was sent at each cut, and the
trailer is its negation. -/
theorem outgoingFrameSumsToZero : Obligations.OutgoingFrameSumsToZero := by
  intro s cs rest d x hst hd hbytes hin
  obtain ⟨c₁, c₂, c₃, ds, cx, rfl, h₁, h₂, h₃, hds⟩ := exists_frame_chunks hbytes
  have htake : ([c₁, c₂, c₃] ++ ds ++ [cx]).take 19 = [c₁, c₂, c₃] ++ ds :=
    List.take_left' (by simp [hds, hd])
  rw [stimulus_append, stimulus_append, List.append_assoc, List.append_assoc] at hin
  obtain ⟨p, hrunHead, hhead, hpin⟩ := exists_run_head hst h₁ h₂ h₃ hin
  obtain ⟨outs, v, hrunData, houts, hv, hvin⟩ := hhead.exists_run_data (by simp [frameHead, hds, hd]) hpin
  have hsent : (frameHead ++ outs).length = 19 := by simp [frameHead, houts, hds, hd]
  obtain ⟨u, hrunTrailer, hu⟩ := hv.exists_run_trailer hsent hvin
  have hrunBody := (stepN_stimulus_append hrunHead).trans hrunData
  refine ⟨v, u, frameHead ++ outs, trailerOf v.csum, by rwa [htake],
    (stepN_stimulus_append hrunBody).trans hrunTrailer, hv.tx, hu, hsent, rfl, hv.csum, rfl, ?_⟩
  rw [byteSum_append, ← hv.csum]
  simp [add_trailerOf]

end Sys2Proof.Machine
end

section
/-! The tail of every byte step (40_step.md R60 to R63): the one byte that is sent, and the checksum that takes it;
the trailer and the override bytes as arithmetic (R67, R69). -/

namespace Sys2Proof.Machine

/-! ### The byte sent at a data position -/

@[simp] theorem dataOut_posHi (c : Nat) (b : Byte) : dataOut Config.posHi c b = outAtHi c b := rfl

@[simp] theorem dataOut_posLo (c : Nat) (b : Byte) : dataOut Config.posLo c b = outAtLo c b := rfl

/-- The positions that no override replaces. -/
theorem dataOut_of_ne {n : Idx} (hhi : n ≠ Config.posHi) (hlo : n ≠ Config.posLo) (c : Nat) (b : Byte) :
    dataOut n c b = b := by
  rw [dataOut, if_neg hhi, if_neg hlo]

/-- CTRL = 0 replaces nothing. -/
@[simp] theorem dataOut_zero (n : Idx) (b : Byte) : dataOut n 0 b = b := by
  simp [dataOut, outAtHi_zero, outAtLo_zero]

/-! ### The steps of the bytes that do not match -/

section mismatch

variable {s : State} {b : Byte} {t : Nat} {rest : List Event}

theorem step_hdrPass (hst : s.st = .awaitHeader) (hin : s.inputs = .byte b t :: rest) (hb : b ≠ Config.header) :
    step s = .next (sendByte b (abandonFrame (accept (.byte b t) rest s))) := by
  rw [step_byte hin, hst]
  exact congrArg (exec · _) (if_neg hb)

theorem step_lenAbort (hst : s.st = .awaitLength) (hin : s.inputs = .byte b t :: rest) (hb : b ≠ Config.length) :
    step s = .next (sendByte b (abandonFrame (accept (.byte b t) rest s))) := by
  rw [step_byte hin, hst]
  exact congrArg (exec · _) (if_neg hb)

theorem step_cmdAbort (hst : s.st = .awaitCommand) (hin : s.inputs = .byte b t :: rest) (hb : b ≠ Config.command) :
    step s = .next (sendByte b (abandonFrame (accept (.byte b t) rest s))) := by
  rw [step_byte hin, hst]
  exact congrArg (exec · _) (if_neg hb)

end mismatch

/-! ### Every byte step ends in `sendByte` -/

/-- The byte that the step of the received byte `b` sends: the trailer at LEN, in the data phase the byte that its
position gives, and `b` itself outside it (40_step.md R61). -/
def outgoingByte (s : State) (b : Byte) : Byte :=
  match s.st with
  | .awaitHeader => b
  | .awaitLength => b
  | .awaitCommand => b
  | .inData => if s.idx + 1 = s.len then trailerOf s.csum else dataOut (s.idx + 1) s.ctrl b

theorem outgoingByte_of_not_inData {s : State} (hst : s.st ≠ .inData) (b : Byte) : outgoingByte s b = b := by
  unfold outgoingByte
  cases h : s.st with
  | awaitHeader => rfl
  | awaitLength => rfl
  | awaitCommand => rfl
  | inData => exact absurd h hst

theorem outgoingByte_of_end {s : State} (hst : s.st = .inData) (hend : s.idx + 1 = s.len) (b : Byte) :
    outgoingByte s b = trailerOf s.csum := by
  unfold outgoingByte
  rw [hst]
  exact if_pos hend

theorem outgoingByte_of_not_end {s : State} (hst : s.st = .inData) (hend : s.idx + 1 ≠ s.len) (b : Byte) :
    outgoingByte s b = dataOut (s.idx + 1) s.ctrl b := by
  unfold outgoingByte
  rw [hst]
  exact if_neg hend

/-- The checksum that the outgoing byte is added to: only a header match writes it before (40_step.md R62). -/
def csumBefore (s : State) (b : Byte) : Csum :=
  if s.st = .awaitHeader ∧ b = Config.header then 0 else s.csum

theorem csumBefore_of_header {s : State} {b : Byte} (hst : s.st = .awaitHeader) (hb : b = Config.header) :
    csumBefore s b = 0 := if_pos ⟨hst, hb⟩

theorem csumBefore_of_not_header {s : State} {b : Byte} (hb : b ≠ Config.header) : csumBefore s b = s.csum :=
  if_neg fun h => hb h.2

theorem csumBefore_of_not_awaitHeader {s : State} (hst : s.st ≠ .awaitHeader) (b : Byte) :
    csumBefore s b = s.csum := if_neg fun h => hst h.1

/-- A byte step is the operation's own writes, which send nothing, and then one `sendByte` (40_step.md R60). -/
theorem exists_step_byte_eq_sendByte {s : State} {b : Byte} {t : Nat} {rest : List Event}
    (hin : s.inputs = .byte b t :: rest) :
    ∃ w, step s = .next (sendByte (outgoingByte s b) w) ∧ w.tx = s.tx ∧ w.csum = csumBefore s b := by
  cases hst : s.st with
  | awaitHeader =>
    rw [outgoingByte_of_not_inData (by simp [hst])]
    by_cases hb : b = Config.header
    · subst hb
      rw [csumBefore_of_header hst rfl]
      exact ⟨_, step_hdrMatch hst hin rfl, rfl, rfl⟩
    · rw [csumBefore_of_not_header hb]
      exact ⟨_, step_hdrPass hst hin hb, rfl, rfl⟩
  | awaitLength =>
    rw [outgoingByte_of_not_inData (by simp [hst]), csumBefore_of_not_awaitHeader (by simp [hst])]
    by_cases hb : b = Config.length
    · subst hb
      exact ⟨_, step_lenMatch hst hin rfl, rfl, rfl⟩
    · exact ⟨_, step_lenAbort hst hin hb, rfl, rfl⟩
  | awaitCommand =>
    rw [outgoingByte_of_not_inData (by simp [hst]), csumBefore_of_not_awaitHeader (by simp [hst])]
    by_cases hb : b = Config.command
    · subst hb
      exact ⟨_, step_cmdMatch hst hin rfl, rfl, rfl⟩
    · exact ⟨_, step_cmdAbort hst hin hb, rfl, rfl⟩
  | inData =>
    rw [csumBefore_of_not_awaitHeader (by simp [hst])]
    by_cases hend : s.idx + 1 = s.len
    · rw [outgoingByte_of_end hst hend, step_inData_of_end hst hin hend]
      exact ⟨_, rfl, by simp, by simp⟩
    · rw [outgoingByte_of_not_end hst hend, step_inData_of_not_end hst hin hend]
      exact ⟨_, rfl, rfl, rfl⟩

/-- Settles O27: the step sends `outgoingByte`, whose value each clause's condition decides. -/
theorem outgoingByteOfEveryStep : Obligations.OutgoingByteOfEveryStep := by
  intro s b t rest hin
  obtain ⟨w, hstep, htx, -⟩ := exists_step_byte_eq_sendByte hin
  have hsent {out : Byte} (hout : outgoingByte s b = out) : (sendByte (outgoingByte s b) w).tx = s.tx ++ [out] := by
    rw [sendByte_tx, htx, hout]
  refine ⟨_, hstep, fun hst => hsent (outgoingByte_of_not_inData hst b),
    fun hst hend => hsent (outgoingByte_of_end hst hend b), fun hst hend hn hc => hsent ?_,
    fun hst hend hn hc => hsent ?_, fun hst hend hhi hlo => hsent ?_, fun hst hend hc => hsent ?_⟩ <;>
    rw [outgoingByte_of_not_end hst hend]
  · rw [hn]
    exact (dataOut_posHi _ _).trans (outAtHi_of_ne_zero hc b)
  · rw [hn]
    exact (dataOut_posLo _ _).trans (outAtLo_of_ne_zero hc b)
  · exact dataOut_of_ne hhi hlo _ b
  · rw [hc, dataOut_zero]

/-- Settles O28: CSUM is `csumBefore` and the outgoing byte; at LEN that byte is the negation of what it is added to. -/
theorem checksumTakesTheOutgoingByte : Obligations.ChecksumTakesTheOutgoingByte := by
  intro s b t rest hin
  obtain ⟨w, hstep, htx, hcsum⟩ := exists_step_byte_eq_sendByte hin
  refine ⟨_, outgoingByte s b, hstep, congrArg (· ++ _) htx, congrArg (· + _) hcsum, ?_, ?_, ?_⟩ <;>
    rw [sendByte_csum, hcsum]
  · intro hst hb
    rw [csumBefore_of_header hst hb, outgoingByte_of_not_inData (by simp [hst]), hb]
    rfl
  · intro hst hb
    rw [csumBefore_of_not_header hb, outgoingByte_of_not_inData (by simp [hst])]
  · intro hst hend
    rw [csumBefore_of_not_awaitHeader (by simp [hst]), outgoingByte_of_end hst hend, add_trailerOf]

/-! ### The trailer and the override bytes as arithmetic -/

/-- Settles O33: the finalizer is the negation of its width, of which the corner cases are evaluated. -/
theorem trailerIsTheNegation : Obligations.TrailerIsTheNegation := by
  refine ⟨fun c => ⟨?_, ?_, add_trailerOf c⟩, by decide⟩ <;> rw [trailerOf_eq_neg]
  · exact BitVec.toNat_neg c
  · exact (BitVec.zero_sub c).symm

/-- A slice of a register that holds `c` is division by a power of two, cut to the slice's width. -/
theorem extractLsb'_ofNat_of_lt {w c : Nat} (h : c < 2 ^ w) (start len : Nat) :
    (BitVec.ofNat w c).extractLsb' start len = BitVec.ofNat len (c / 2 ^ start) := by
  rw [BitVec.extractLsb', BitVec.toNat_ofNat, Nat.mod_eq_of_lt h, Nat.shiftRight_eq_div_pow]

theorem overrideOn_iff (c : Nat) : overrideOn c = true ↔ c ≠ 0 := bne_iff_ne

/-- A register that holds `c` is zero exactly when `c` is. -/
theorem ofNat_eq_zero_iff_of_lt {w c : Nat} (h : c < 2 ^ w) : BitVec.ofNat w c = 0 ↔ c = 0 := by
  rw [← BitVec.toNat_inj, BitVec.toNat_ofNat, Nat.mod_eq_of_lt h, BitVec.ofNat_eq_ofNat, BitVec.toNat_zero]

/-- Settles O34: an override byte is the low eight bits of CTRL / 256 or of CTRL, and so is the slice of a register that
holds CTRL; the examples are evaluated. -/
theorem overrideBytesAreQuotientAndRemainder : Obligations.OverrideBytesAreQuotientAndRemainder := by
  refine ⟨fun c => ⟨BitVec.toNat_ofNat .., BitVec.toNat_ofNat .., ?_⟩, fun w c _ hc => ⟨?_, ?_, ?_⟩, by decide⟩
  · rw [overrideOn_iff, Nat.pos_iff_ne_zero]
  · exact extractLsb'_ofNat_of_lt hc 8 8
  · rw [extractLsb'_ofNat_of_lt hc, pow_zero, Nat.div_one]
    rfl
  · rw [overrideOn_iff, Ne, Ne, ofNat_eq_zero_iff_of_lt hc]

end Sys2Proof.Machine
end

section
/-! The frame-synchronisation operations (41_sync.md): outside the data phase the byte is compared with one constant of the
frame grammar; a match writes the next parser state with its own registers, a mismatch only goes back to AwaitHeader, and
the byte is relayed in both. -/

namespace Sys2Proof.Machine

/-! ### The operation selected, by parser state (30_encoding.md R52, rows 3 to 8) -/

section select

variable {s : State}

theorem select_awaitHeader (hst : s.st = .awaitHeader) (b : Byte) (t : Nat) :
    selectInstr s (.byte b t) = .ok (if b = Config.header then .hdrMatch else .hdrPass b) := by
  rw [select_byte, hst]

theorem select_awaitLength (hst : s.st = .awaitLength) (b : Byte) (t : Nat) :
    selectInstr s (.byte b t) = .ok (if b = Config.length then .lenMatch else .lenAbort b) := by
  rw [select_byte, hst]

theorem select_awaitCommand (hst : s.st = .awaitCommand) (b : Byte) (t : Nat) :
    selectInstr s (.byte b t) = .ok (if b = Config.command then .cmdMatch else .cmdAbort b) := by
  rw [select_byte, hst]

end select

/-! ### The operation's own writes and then the tail of the step, as one update -/

/-- The checksum is cleared before the byte is added to it, so it is the byte (41_sync.md R72). -/
theorem sendByte_startFrame (b : Byte) (s : State) :
    sendByte b (startFrame s) =
      { s with st := .awaitLength, idx := 0, val := 0, csum := b, tx := s.tx ++ [b] } := by
  rw [sendByte, startFrame_csum, BitVec.ofNat_eq_ofNat, BitVec.zero_add]
  rfl

theorem sendByte_recordLength (b out : Byte) (s : State) :
    sendByte out (recordLength b s) =
      { s with len := b, st := .awaitCommand, csum := s.csum + out, tx := s.tx ++ [out] } := rfl

theorem sendByte_recordCommand (b out : Byte) (s : State) :
    sendByte out (recordCommand b s) =
      { s with cmd := b, st := .inData, csum := s.csum + out, tx := s.tx ++ [out] } := rfl

/-- The effect that HDR.PASS, LEN.ABORT and CMD.ABORT share (41_sync.md R73, R75, R77). -/
theorem sendByte_abandonFrame (b : Byte) (s : State) :
    sendByte b (abandonFrame s) = { s with st := .awaitHeader, csum := s.csum + b, tx := s.tx ++ [b] } := rfl

/-! ### The six operations -/

/-- Settles O11: the frame is started and HEADER sent; HEADER is the byte that AwaitHeader tests for. -/
theorem hdrMatchStartsAFrame : Obligations.HdrMatchStartsAFrame := by
  refine ⟨fun s => congrArg Host.Outcome.next (sendByte_startFrame Config.header s), fun s t hst => ?_⟩
  exact (select_awaitHeader hst _ t).trans (congrArg Except.ok (if_pos rfl))

/-- Settles O12: a byte other than HEADER takes the mismatch branch of AwaitHeader. -/
theorem hdrPassRelays : Obligations.HdrPassRelays := by
  refine ⟨fun b s => congrArg Host.Outcome.next (sendByte_abandonFrame b s), fun s b t hst hb => ?_⟩
  exact (select_awaitHeader hst b t).trans (congrArg Except.ok (if_neg hb))

/-- Settles O13: LENGTH is recorded and sent; LENGTH is the byte that AwaitLength tests for. -/
theorem lenMatchRecordsTheLength : Obligations.LenMatchRecordsTheLength := by
  refine ⟨fun s => congrArg Host.Outcome.next (sendByte_recordLength Config.length Config.length s),
    fun s t hst => ?_⟩
  exact (select_awaitLength hst _ t).trans (congrArg Except.ok (if_pos rfl))

/-- Settles O14: a byte other than LENGTH, HEADER among them, takes the mismatch branch of AwaitLength. -/
theorem lenAbortAbandonsTheFrame : Obligations.LenAbortAbandonsTheFrame := by
  refine ⟨fun b s => congrArg Host.Outcome.next (sendByte_abandonFrame b s), fun s b t hst hb => ?_⟩
  exact (select_awaitLength hst b t).trans (congrArg Except.ok (if_neg hb))

/-- Settles O15: COMMAND is recorded and sent; COMMAND is the byte that AwaitCommand tests for. -/
theorem cmdMatchEntersTheData : Obligations.CmdMatchEntersTheData := by
  refine ⟨fun s => congrArg Host.Outcome.next (sendByte_recordCommand Config.command Config.command s),
    fun s t hst => ?_⟩
  exact (select_awaitCommand hst _ t).trans (congrArg Except.ok (if_pos rfl))

/-- Settles O16: a byte other than COMMAND takes the mismatch branch of AwaitCommand. -/
theorem cmdAbortAbandonsTheFrame : Obligations.CmdAbortAbandonsTheFrame := by
  refine ⟨fun b s => congrArg Host.Outcome.next (sendByte_abandonFrame b s), fun s b t hst hb => ?_⟩
  exact (select_awaitCommand hst b t).trans (congrArg Except.ok (if_neg hb))

end Sys2Proof.Machine
end

section
/-! The data-phase operations (42_data.md R79 to R82): the incremented index selects the operation and is compared with LEN;
at LEN the frame is closed with the trailer, at any other position a byte is sent and nothing is committed. -/

namespace Sys2Proof.Machine

/-! ### The operation selected, by data position (30_encoding.md R52, rows 9 to 12) -/

theorem select_inData {s : State} (hst : s.st = .inData) (b : Byte) (t : Nat) :
    selectInstr s (.byte b t) = .ok (
      if s.idx + 1 = Config.posHi then .datHi b
      else if s.idx + 1 = Config.posLo then .datLo b
      else if s.idx + 1 = Config.length then .datEnd b
      else .datPass (s.idx + 1) b) := by
  rw [select_byte, hst]

/-! ### The byte sent, as the test of CTRL -/

theorem outAtHi_eq_ite (c : Nat) (b : Byte) : outAtHi c b = if c ≠ 0 then BitVec.ofNat 8 (c / 256) else b :=
  if_congr (overrideOn_iff c) rfl rfl

theorem outAtLo_eq_ite (c : Nat) (b : Byte) : outAtLo c b = if c ≠ 0 then BitVec.ofNat 8 c else b :=
  if_congr (overrideOn_iff c) rfl rfl

/-! ### The operation's own writes and then the end test, as one update -/

theorem finishData_advanceIndex {s : State} (hend : s.idx + 1 ≠ s.len) (out : Byte) :
    finishData out (advanceIndex s) =
      { s with idx := s.idx + 1, csum := s.csum + out, tx := s.tx ++ [out] } :=
  finishData_of_not_end (s := advanceIndex s) hend out

theorem finishData_accumulate_advanceIndex {s : State} (hend : s.idx + 1 ≠ s.len) (out : Byte) (d : Val) :
    finishData out (accumulate d (advanceIndex s)) =
      { s with idx := s.idx + 1, val := s.val + d, csum := s.csum + out, tx := s.tx ++ [out] } :=
  finishData_of_not_end (s := accumulate d (advanceIndex s)) hend out

/-- The test of CMD, moved from the state into the three fields that a commit writes (42_data.md R82). -/
theorem closeFrame_eq (s : State) :
    closeFrame s =
      { s with st := .awaitHeader
               count := if s.cmd = Config.command then s.val else s.count
               tstamp := if s.cmd = Config.command then s.now else s.tstamp
               upd := if s.cmd = Config.command then true else s.upd } := by
  apply state_ext <;> simp

/-- The trailer is the negation of the checksum it is added to, so it leaves zero (42_data.md R82). -/
theorem sendByte_trailerOf (s : State) :
    sendByte (trailerOf s.csum) s = { s with csum := 0, tx := s.tx ++ [trailerOf s.csum] } := by
  rw [sendByte, add_trailerOf]

theorem finishData_advanceIndex_of_end {s : State} (hend : s.idx + 1 = s.len) (b : Byte) :
    finishData b (advanceIndex s) =
      { s with idx := s.idx + 1, st := .awaitHeader
               count := if s.cmd = Config.command then s.val else s.count
               tstamp := if s.cmd = Config.command then s.now else s.tstamp
               upd := if s.cmd = Config.command then true else s.upd
               csum := 0, tx := s.tx ++ [trailerOf s.csum] } := by
  rw [finishData_of_end (s := advanceIndex s) hend, closeFrame_eq]
  exact sendByte_trailerOf _

/-! ### The four operations -/

/-- Settles O19: without the end test the step is the increment and the byte sent; a position that is none of the three
named ones takes the last row. -/
theorem datPassRelays : Obligations.DatPassRelays := by
  refine ⟨fun n b s hend => congrArg Host.Outcome.next (finishData_advanceIndex hend b),
    fun s b t hst hhi hlo hlen => ?_⟩
  exact (select_inData hst b t).trans
    (congrArg Except.ok ((if_neg hhi).trans ((if_neg hlo).trans (if_neg hlen))))

/-- Settles O20: the high term goes to VAL and the byte that the test of CTRL chooses is sent; position 3 is POS_HI. -/
theorem datHiTakesTheHighByte : Obligations.DatHiTakesTheHighByte := by
  refine ⟨fun b s hend => ?_, fun s b t hst hidx => ?_⟩
  · rw [← outAtHi_eq_ite]
    exact congrArg Host.Outcome.next (finishData_accumulate_advanceIndex hend _ (hiTerm b))
  · rw [select_inData hst, hidx]
    rfl

/-- Settles O21: the low term goes to VAL and the byte that the test of CTRL chooses is sent; position 4 is POS_LO. -/
theorem datLoTakesTheLowByte : Obligations.DatLoTakesTheLowByte := by
  refine ⟨fun b s hend => ?_, fun s b t hst hidx => ?_⟩
  · rw [← outAtLo_eq_ite]
    exact congrArg Host.Outcome.next (finishData_accumulate_advanceIndex hend _ (loTerm b))
  · rw [select_inData hst, hidx]
    rfl

/-- Settles O22: the end test succeeds, and the trailer it sends is the negation of CSUM; position 17 is LENGTH. -/
theorem datEndClosesTheFrame : Obligations.DatEndClosesTheFrame := by
  refine ⟨fun b s hend => ?_, fun s b t hst hidx => ?_⟩
  · exact (execDatEnd_eq b s).trans (congrArg Host.Outcome.next (finishData_advanceIndex_of_end hend b))
  · rw [select_inData hst, hidx]
    rfl

end Sys2Proof.Machine
end

section
/-! CTRL between control writes (43_control_sensor.md R86): a step takes one event from the queue, and it leaves CTRL
alone unless that event is a control write or a reset. -/

namespace Sys2Proof.Machine

/-! ### One operation -/

@[simp] theorem finishData_ctrl (out : Byte) (s : State) : (finishData out s).ctrl = s.ctrl := by
  by_cases h : s.idx = s.len
  · rw [finishData_of_end h, sendByte_ctrl, closeFrame_ctrl]
  · rw [finishData_of_not_end h, sendByte_ctrl]

@[simp] theorem finishData_inputs (out : Byte) (s : State) : (finishData out s).inputs = s.inputs := by
  by_cases h : s.idx = s.len
  · rw [finishData_of_end h, sendByte_inputs, closeFrame_inputs]
  · rw [finishData_of_not_end h, sendByte_inputs]

/-- A byte operation leaves CTRL and the pending events alone. -/
theorem exec_byteOp_keeps_ctrl_inputs {i : Instr} (hi : i.isByteOp = true) (s : State) :
    ∃ u, exec i s = .next u ∧ u.ctrl = s.ctrl ∧ u.inputs = s.inputs := by
  cases i with
  | reset => cases hi
  | ctrlWrite => cases hi
  | hdrMatch => exact ⟨_, rfl, rfl, rfl⟩
  | hdrPass b => exact ⟨_, rfl, rfl, rfl⟩
  | lenMatch => exact ⟨_, rfl, rfl, rfl⟩
  | lenAbort b => exact ⟨_, rfl, rfl, rfl⟩
  | cmdMatch => exact ⟨_, rfl, rfl, rfl⟩
  | cmdAbort b => exact ⟨_, rfl, rfl, rfl⟩
  | datHi b => exact ⟨_, rfl, finishData_ctrl _ _, finishData_inputs _ _⟩
  | datLo b => exact ⟨_, rfl, finishData_ctrl _ _, finishData_inputs _ _⟩
  | datEnd b => exact ⟨_, execDatEnd_eq b s, finishData_ctrl _ _, finishData_inputs _ _⟩
  | datPass n b => exact ⟨_, rfl, finishData_ctrl _ _, finishData_inputs _ _⟩

/-! ### One step -/

theorem exists_step_byte_keeps_ctrl {s : State} {b : Byte} {t : Nat} {rest : List Event}
    (hin : s.inputs = .byte b t :: rest) :
    ∃ u, step s = .next u ∧ u.ctrl = s.ctrl ∧ u.inputs = rest := by
  obtain ⟨i, hsel, hbyte⟩ := exists_selectInstr_byte s b t
  rw [step_ok hin hsel]
  exact exec_byteOp_keeps_ctrl_inputs hbyte (accept (.byte b t) rest s)

/-- A control write replaces CTRL by what CTRL_W bits keep of its value (43_control_sensor.md R87). -/
theorem step_ctrlw {s : State} {w : Nat} {rest : List Event} (hin : s.inputs = .ctrlw w :: rest) :
    step s = .next (writeControl w (accept (.ctrlw w) rest s)) := step_ok hin (select_ctrlw s w)

/-- A step whose event is no control write (EV = 1) and no reset (EV = 2), or that has no event, leaves CTRL alone. -/
theorem step_keeps_ctrl_and_takes_event {s u : State} (h : step s = .next u)
    (hev : ∀ ev ∈ s.inputs.take 1, evCode ev ≠ 1 ∧ evCode ev ≠ 2) :
    u.ctrl = s.ctrl ∧ u.inputs = s.inputs.tail := by
  cases hin : s.inputs with
  | nil =>
    obtain rfl : lowerStrobe s = u := Host.Outcome.next.inj ((step_nil hin).symm.trans h)
    exact ⟨rfl, hin⟩
  | cons ev rest =>
    obtain ⟨hwrite, hreset⟩ := hev ev (by simp [hin])
    cases ev with
    | byte b t =>
      obtain ⟨v, hstep, hctrl, hinputs⟩ := exists_step_byte_keeps_ctrl hin
      obtain rfl : v = u := Host.Outcome.next.inj (hstep.symm.trans h)
      exact ⟨hctrl, hinputs⟩
    | ctrlw w => exact absurd rfl hwrite
    | reset => exact absurd rfl hreset
    | reserved => cases (step_error hin (select_reserved s)).symm.trans h

/-! ### A run -/

/-- A run that completes completes its first step. -/
theorem exists_step_of_stepN_succ {n : Nat} {s u : State} (h : stepN (n + 1) s = .next u) :
    ∃ v, step s = .next v ∧ stepN n v = .next u := by
  cases hstep : step s with
  | next v => exact ⟨v, rfl, (stepN_succ hstep).symm.trans h⟩
  | fault r => cases r
  | refused r => simp [stepN, hstep] at h

/-- No byte, frame or passage of time changes CTRL (43_control_sensor.md R86). -/
theorem stepN_keeps_ctrl {n : Nat} {s u : State} (h : stepN n s = .next u)
    (hev : ∀ ev ∈ s.inputs.take n, evCode ev ≠ 1 ∧ evCode ev ≠ 2) : u.ctrl = s.ctrl := by
  induction n generalizing s with
  | zero => exact congrArg State.ctrl (Host.Outcome.next.inj h).symm
  | succ n ih =>
    obtain ⟨v, hstep, hrun⟩ := exists_step_of_stepN_succ h
    have hfirst : s.inputs.take 1 ⊆ s.inputs.take (n + 1) := List.take_subset_take_left _ (Nat.succ_pos n)
    obtain ⟨hctrl, hinputs⟩ := step_keeps_ctrl_and_takes_event hstep fun ev hmem => hev ev (hfirst hmem)
    have hlater : v.inputs.take n ⊆ s.inputs.take (n + 1) := by
      have htail : (s.inputs.take (n + 1)).tail = s.inputs.tail.take n := List.tail_take_eq_take_tail _ _
      rw [hinputs, ← htail]
      exact List.tail_subset _
    exact (ih hrun fun ev hmem => hev ev (hlater hmem)).trans hctrl

/-- Settles O36: the write sets CTRL, the run keeps it, and the byte sent at position 3 or 4 is O27's for that CTRL. -/
theorem ctrlPersistsUntilOverwritten : Obligations.CtrlPersistsUntilOverwritten := by
  intro s s₁ w rest hw hin hstep
  obtain rfl := Host.Outcome.next.inj ((step_ctrlw hin).symm.trans hstep)
  have hset : ctrlBits s.params w = w := Nat.mod_eq_of_lt hw
  refine ⟨hset, fun n u hrun hev => ?_⟩
  have hctrl : u.ctrl = w := (stepN_keeps_ctrl hrun hev).trans hset
  refine ⟨hctrl, fun b t rest' huin hst hend hw0 => ?_⟩
  obtain ⟨v, hv, -, -, hhi, hlo, -, -⟩ := outgoingByteOfEveryStep u b t rest' huin
  rw [hctrl] at hhi hlo
  exact ⟨v, hv, fun h3 => hhi hst hend h3 hw0, fun h4 => hlo hst hend h4 hw0⟩

end Sys2Proof.Machine
end

section
/-! Completion (60_exceptions.md R90) and the ownership of the registers (R99): what the step of each kind of event does,
read off its equation. -/

namespace Sys2Proof.Machine

/-! ### Resets -/

/-- RESET sets the registers of the state that has taken the event (70_reset_and_hazards.md R107). -/
theorem step_reset {s : State} {rest : List Event} (hin : s.inputs = .reset :: rest) :
    step s = .next (resetRegisters (accept .reset rest s)) := step_ok hin (select_reset s)

/-- No register holds after a reset what depends on its contents before (70_reset_and_hazards.md R107). -/
theorem sameReg_resetRegisters (r : Reg) (s s' : State) : sameReg r (resetRegisters s) (resetRegisters s') := by
  cases r <;> rfl

/-! ### Completion -/

/-- An event of the alphabet, a byte, a control write or a reset, has a next state. -/
theorem exists_step_of_ne_reserved {s : State} {ev : Event} {rest : List Event} (hin : s.inputs = ev :: rest)
    (hev : ev ≠ .reserved) : ∃ t, step s = .next t := by
  cases ev with
  | byte b t =>
    obtain ⟨u, hstep, -⟩ := exists_step_byte_keeps_ctrl hin
    exact ⟨u, hstep⟩
  | ctrlw w => exact ⟨_, step_ctrlw hin⟩
  | reset => exact ⟨_, step_reset hin⟩
  | reserved => exact absurd rfl hev

/-- A refused step has a reserved event next: with no event, and with any other, the step completes. -/
theorem exists_reserved_of_step_refused {s : State} {why : Refusal} (h : step s = .refused why) :
    ∃ rest, s.inputs = .reserved :: rest := by
  cases hin : s.inputs with
  | nil => cases (step_nil hin).symm.trans h
  | cons ev rest =>
    by_cases hev : ev = .reserved
    · exact ⟨rest, by rw [hev]⟩
    · obtain ⟨t, hstep⟩ := exists_step_of_ne_reserved hin hev
      cases hstep.symm.trans h

/-- Settles O10: completion by the kind of event, and the refusal by its converse; there is no reason for a fault. -/
theorem everyStepCompletes : Obligations.EveryStepCompletes := by
  refine fun s => ⟨fun ev rest => exists_step_of_ne_reserved, fun r => ?_, fun why => exists_reserved_of_step_refused⟩
  cases r

/-! ### Ownership -/

/-- Taking a control write and performing it leaves every register but CTRL alone. -/
theorem sameReg_writeControl_accept {r : Reg} (hr : r ≠ .ctrl) (w : Nat) (ev : Event) (rest : List Event) (s : State) :
    sameReg r s (writeControl w (accept ev rest s)) := by
  cases r with
  | ctrl => exact absurd rfl hr
  | _ => rfl

/-- Lowering the strobe writes no register. -/
theorem sameReg_lowerStrobe (r : Reg) (s : State) : sameReg r s (lowerStrobe s) := by
  cases r <;> rfl

/-- Settles O31: in each clause the completed step is the one that the event's equation gives. -/
theorem registersAreWrittenByTheirOwners : Obligations.RegistersAreWrittenByTheirOwners := by
  intro s u h
  refine ⟨fun b t rest hin => ?byte, fun w rest hin => ?ctrlw, fun rest hin s' u' rest' hin' h' => ?reset,
    fun hin => ?idle⟩
  case byte =>
    obtain ⟨v, hstep, hctrl, -⟩ := exists_step_byte_keeps_ctrl hin
    obtain rfl := Host.Outcome.next.inj (hstep.symm.trans h)
    exact hctrl
  case ctrlw =>
    obtain rfl := Host.Outcome.next.inj ((step_ctrlw hin).symm.trans h)
    exact ⟨fun hw => Nat.mod_eq_of_lt hw, fun r hr => sameReg_writeControl_accept hr w _ rest s⟩
  case reset =>
    obtain rfl := Host.Outcome.next.inj ((step_reset hin).symm.trans h)
    obtain rfl := Host.Outcome.next.inj ((step_reset hin').symm.trans h')
    exact fun r => sameReg_resetRegisters r _ _
  case idle =>
    obtain rfl := Host.Outcome.next.inj ((step_nil hin).symm.trans h)
    exact fun r => sameReg_lowerStrobe r s

end Sys2Proof.Machine
end

section
/-! The entry point after reset (70_reset_and_hazards.md R109): AwaitHeader, from which a byte selects a header test. -/

namespace Sys2Proof.Machine

/-- Settles O41: both resets leave ST = AwaitHeader, and a byte's selection there looks at nothing else of the state. -/
theorem firstByteAfterResetIsAHeaderTest : Obligations.FirstByteAfterResetIsAHeaderTest := by
  refine ⟨fun p => ?powerUp, fun s rest hin => ?resetEvent⟩
  case powerUp =>
    have hst : (State.resetWith p).st = .awaitHeader := rfl
    exact ⟨hst, select_awaitHeader hst⟩
  case resetEvent =>
    have hst := resetRegisters_st (accept .reset rest s)
    exact ⟨_, step_reset hin, hst, select_awaitHeader hst⟩

end Sys2Proof.Machine
end

section
/-! The event key and its record, both ways (30_encoding.md section 3): a well-formed operation is what its own key
selects, a decoded key is the operation's own on the fields that carry meaning, and a record is read back as written. -/

namespace Sys2Proof

open Machine

/-! ### The key of an operation -/

theorem decodeKey_resetKey (f : StCode) (n : Idx) (b : Byte) (w : Nat) : decodeKey (mkKey 2 f n b) w = .ok .reset :=
  decodeKey_of_selectRow (selectRow_resetKey f n b)

theorem decodeKey_ctrlWriteKey (f : StCode) (n : Idx) (b : Byte) (w : Nat) :
    decodeKey (mkKey 1 f n b) w = .ok (.ctrlWrite w) :=
  decodeKey_of_selectRow (selectRow_ctrlWriteKey f n b)

/-- No row tests for EV = 3 (30_encoding.md R54 (d)). -/
theorem decodeKey_reservedKey (f : StCode) (n : Idx) (b : Byte) (w : Nat) :
    decodeKey (mkKey 3 f n b) w = .error .reservedEventKind := by
  simp [decodeKey, selectRow, rowOrder, rowHolds_mkKey]

/-- A well-formed byte operation passes the tests of the rows before its own (30_encoding.md R52). -/
theorem decodeKey_instrKey {p : Params} {i : Instr} (hbyte : i.isByteOp = true) (hwf : i.wellFormed p = true)
    (w : Nat) : decodeKey (instrKey i) w = .ok i := by
  cases i with
  | reset => cases hbyte
  | ctrlWrite => cases hbyte
  | hdrPass b => exact (decodeKey_byteKey 0 0 b w).trans (congrArg Except.ok (if_neg (bne_iff_ne.mp hwf)))
  | lenAbort b => exact (decodeKey_byteKey 1 0 b w).trans (congrArg Except.ok (if_neg (bne_iff_ne.mp hwf)))
  | cmdAbort b => exact (decodeKey_byteKey 2 0 b w).trans (congrArg Except.ok (if_neg (bne_iff_ne.mp hwf)))
  | datPass n b =>
    simp only [Instr.wellFormed, Bool.and_eq_true, bne_iff_ne] at hwf
    obtain ⟨⟨hhi, hlo⟩, hlen⟩ := hwf
    exact (decodeKey_byteKey 3 n b w).trans
      (congrArg Except.ok ((if_neg hhi).trans ((if_neg hlo).trans (if_neg hlen))))
  | hdrMatch => exact decodeKey_byteKey 0 0 _ w
  | lenMatch => exact decodeKey_byteKey 1 0 _ w
  | cmdMatch => exact decodeKey_byteKey 2 0 _ w
  | datHi b => exact decodeKey_byteKey 3 _ b w
  | datLo b => exact decodeKey_byteKey 3 _ b w
  | datEnd b => exact decodeKey_byteKey 3 _ b w

theorem keyEv_instrKey_of_isByteOp {i : Instr} (hbyte : i.isByteOp = true) : keyEv (instrKey i) = 0 := by
  cases i with
  | reset => cases hbyte
  | ctrlWrite => cases hbyte
  | _ => exact keyEv_mkKey _ _ _ _

/-! ### The record of an operation -/

/-- The spare bits above a key's 20 are zero in its third byte (log entry 12). -/
theorem spareBits_keyBytes (k : Key) : ((0 : BitVec 4) ++ k.extractLsb' 16 4 : Byte).extractLsb' 4 4 = 0 :=
  BitVec.extractLsb'_append_eq_left

/-- The decoder finds the key that the encoder wrote, and the operand after it. -/
theorem decode_keyBytes_append (p : Params) (k : Key) (bs : List Byte) :
    decode p (keyBytes k ++ bs) = decodeBody p k bs := by
  refine (if_pos (spareBits_keyBytes k)).trans ?_
  rw [keyOfBytes_keyBytes]
  rfl

/-- A control write's operand is read back, all CTRL_W bits of it. -/
theorem decodeBody_ctrlWrite {p : Params} {w : Nat} (hw : w < 2 ^ p.ctrlW) (rest : List Byte) :
    decodeBody p (instrKey (.ctrlWrite w)) (bytesOfNat (ctrlLength p) w ++ rest) = .ok (.ctrlWrite w, rest) := by
  have hlen : (bytesOfNat (ctrlLength p) w).length = ctrlLength p := bytesOfNat_length _ w
  have hev : keyEv (instrKey (.ctrlWrite w)) = 1 := keyEv_mkKey _ _ _ _
  rw [decodeBody, if_pos hev, if_neg (by simp), List.take_left' hlen, List.drop_left' hlen, natOfBytes_ctrl hw,
    if_pos hw, instrKey, decodeKey_ctrlWriteKey]
  rfl

/-- Where EV is not 1 there is no operand. -/
theorem decodeBody_of_no_operand {p : Params} {k : Key} {i : Instr} (hev : keyEv k ≠ 1) (h : decodeKey k 0 = .ok i)
    (bs : List Byte) : decodeBody p k bs = .ok (i, bs) := by
  rw [decodeBody, if_neg hev, h]
  rfl

/-- Only a control write has operand bytes. -/
theorem operandBytes_of_isByteOp (p : Params) {i : Instr} (hbyte : i.isByteOp = true) : operandBytes p i = [] := by
  cases i with
  | ctrlWrite => cases hbyte
  | _ => rfl

/-- Settles O1: the decoder finds the key again, the key selects the operation again, and an operand is read back. -/
theorem decodeOfEncode : Obligations.DecodeOfEncode := by
  intro p i rest hwf
  rw [encode, List.append_assoc, decode_keyBytes_append]
  by_cases hbyte : i.isByteOp = true
  · rw [operandBytes_of_isByteOp p hbyte]
    refine decodeBody_of_no_operand ?_ (decodeKey_instrKey hbyte hwf 0) rest
    rw [keyEv_instrKey_of_isByteOp hbyte]
    decide
  · cases i with
    | reset =>
      exact decodeBody_of_no_operand (by rw [keyEv_mkKey]; decide) (decodeKey_resetKey 0 0 0 0) rest
    | ctrlWrite w => exact decodeBody_ctrlWrite (of_decide_eq_true hwf) rest
    | _ => exact absurd rfl hbyte

/-! ### What a key decodes to -/

/-- The four kinds of event (30_encoding.md R51). -/
theorem eventKind_cases (e : EventKind) : e = 0 ∨ e = 1 ∨ e = 2 ∨ e = 3 := by
  revert e
  decide

/-- Settles O3: the key's STF and then its B or N decide the operation, each outcome of which is a byte operation. -/
theorem everyByteKeySelectsOneByteOperation : Obligations.EveryByteKeySelectsOneByteOperation := by
  intro k hev
  rw [← mkKey_fields k, hev]
  refine ⟨_, ?_, decodeKey_byteKey (keyStf k) (keyN k) (keyB k)⟩
  split_ifs <;> rfl

/-- What a byte key selects is well-formed, and its own key is that key with N cleared where no row reads it. -/
theorem wellFormed_and_instrKey_of_decodeKey_byteKey {f : StCode} {n : Idx} {b : Byte} {w : Nat} {i : Instr}
    (p : Params) (h : decodeKey (mkKey 0 f n b) w = .ok i) :
    i.wellFormed p = true ∧ i.isByteOp = true ∧ instrKey i = mkKey 0 f n b &&& meaningfulBits i := by
  rw [decodeKey_byteKey] at h
  obtain rfl := Except.ok.inj h
  have hf : f = 0 ∨ f = 1 ∨ f = 2 ∨ f = 3 := eventKind_cases f
  rcases hf with rfl | rfl | rfl | rfl
  · by_cases hb : b = Config.header <;>
      simp [hb, Instr.wellFormed, Instr.isByteOp, instrKey, meaningfulBits, mkKey_and, and_ones_byte]
  · by_cases hb : b = Config.length <;>
      simp [hb, Instr.wellFormed, Instr.isByteOp, instrKey, meaningfulBits, mkKey_and, and_ones_byte]
  · by_cases hb : b = Config.command <;>
      simp [hb, Instr.wellFormed, Instr.isByteOp, instrKey, meaningfulBits, mkKey_and, and_ones_byte]
  · simp only [show (3 : StCode) ≠ 0 by decide, show (3 : StCode) ≠ 1 by decide, show (3 : StCode) ≠ 2 by decide,
      if_false]
    split_ifs with hhi hlo hlen <;>
      simp_all [Instr.wellFormed, Instr.isByteOp, instrKey, meaningfulBits, mkKey_and, and_ones_byte]

/-- Settles O4: by the kind of event; the key of a decoded operation keeps the fields that its row reads. -/
theorem decodedKeyReencodes : Obligations.DecodedKeyReencodes := by
  intro p k w i hw h
  rw [← mkKey_fields k] at h ⊢
  rw [keyEv_mkKey]
  rcases eventKind_cases (keyEv k) with hev | hev | hev | hev <;> rw [hev] at h ⊢
  · obtain ⟨hwf, hbyte, hkey⟩ := wellFormed_and_instrKey_of_decodeKey_byteKey p h
    exact ⟨hwf, hkey, operandBytes_of_isByteOp p hbyte⟩
  · rw [decodeKey_ctrlWriteKey] at h
    obtain rfl := Except.ok.inj h
    exact ⟨decide_eq_true hw, by simp [instrKey, meaningfulBits, mkKey_and], rfl⟩
  · rw [decodeKey_resetKey] at h
    obtain rfl := Except.ok.inj h
    exact ⟨rfl, by simp [instrKey, meaningfulBits, mkKey_and], rfl⟩
  · rw [decodeKey_reservedKey] at h
    cases h

/-- Settles O5: each word is read by the decoder of table words. -/
theorem sampleKeysDecode : Obligations.SampleKeysDecode := by
  unfold Obligations.SampleKeysDecode
  decide

/-- Settles O6: no row holds for such a key, and an event of that kind has such a key. -/
theorem reservedEventKindIsRefused : Obligations.ReservedEventKindIsRefused := by
  refine ⟨fun k w hev => ?_, fun s rest hin => step_error hin (select_reserved s)⟩
  rw [← mkKey_fields k, hev]
  exact decodeKey_reservedKey _ _ _ w

end Sys2Proof
end

section
/-! What a step can do, said once: with no event it lowers the strobe, and else it is the update of its event, which
for a byte is one of two: a comparison with the frame grammar (41_sync.md) or the data update (42_data.md). -/

namespace Sys2Proof.Machine

/-! ### The two byte updates -/

/-- A byte's own writes outside the data phase: a match moves the parser on, a mismatch abandons the frame (41_sync.md
R72 to R77). -/
def syncWrites (b : Byte) (s : State) : State :=
  match s.st with
  | .awaitHeader => if b = Config.header then startFrame s else abandonFrame s
  | .awaitLength => if b = Config.length then recordLength b s else abandonFrame s
  | .awaitCommand => if b = Config.command then recordCommand b s else abandonFrame s
  | .inData => s

/-- The update of a byte in the data phase: the increment, the position's writes, the end test (42_data.md R78). -/
def dataUpdate (b : Byte) (s : State) : State :=
  finishData (dataOut (s.idx + 1) s.ctrl b) (accumulate (dataTerm (s.idx + 1) b) (advanceIndex s))

/-- The update of an event of the alphabet, on the state that has taken it. -/
def eventUpdate (s : State) : Event → State
  | .byte b _ => if s.st = .inData then dataUpdate b s else sendByte b (syncWrites b s)
  | .ctrlw w => writeControl w s
  | .reset => resetRegisters s
  | .reserved => s

theorem eventUpdate_byte_of_inData {s : State} (hst : s.st = .inData) (b : Byte) (t : Nat) :
    eventUpdate s (.byte b t) = dataUpdate b s := if_pos hst

theorem eventUpdate_byte_of_not_inData {s : State} (hst : s.st ≠ .inData) (b : Byte) (t : Nat) :
    eventUpdate s (.byte b t) = sendByte b (syncWrites b s) := if_neg hst

/-! ### A step is the update of its event -/

theorem step_byte_of_not_inData {s : State} {b : Byte} {t : Nat} {rest : List Event} (hst : s.st ≠ .inData)
    (hin : s.inputs = .byte b t :: rest) :
    step s = .next (sendByte b (syncWrites b (accept (.byte b t) rest s))) := by
  unfold syncWrites
  rw [accept_st]
  cases hs : s.st with
  | awaitHeader =>
    by_cases hb : b = Config.header
    · rw [step_hdrMatch hs hin hb, hb]
      rfl
    · rw [step_hdrPass hs hin hb]
      simp only [if_neg hb]
  | awaitLength =>
    by_cases hb : b = Config.length
    · rw [step_lenMatch hs hin hb, hb]
      rfl
    · rw [step_lenAbort hs hin hb]
      simp only [if_neg hb]
  | awaitCommand =>
    by_cases hb : b = Config.command
    · rw [step_cmdMatch hs hin hb, hb]
      rfl
    · rw [step_cmdAbort hs hin hb]
      simp only [if_neg hb]
  | inData => exact absurd hs hst

theorem step_eq_eventUpdate {s : State} {ev : Event} {rest : List Event} (hin : s.inputs = ev :: rest)
    (hev : ev ≠ .reserved) : step s = .next (eventUpdate (accept ev rest s) ev) := by
  cases ev with
  | byte b t =>
    by_cases hst : s.st = .inData
    · rw [eventUpdate_byte_of_inData (by exact hst), step_inData hst hin]
      rfl
    · rw [eventUpdate_byte_of_not_inData (by exact hst), step_byte_of_not_inData hst hin]
  | ctrlw w => exact step_ctrlw hin
  | reset => exact step_reset hin
  | reserved => exact absurd rfl hev

/-- All that a completed step can have done. -/
theorem step_next_cases {s u : State} (h : step s = .next u) :
    (s.inputs = [] ∧ u = lowerStrobe s) ∨
    ∃ ev rest, s.inputs = ev :: rest ∧ ev ≠ .reserved ∧ u = eventUpdate (accept ev rest s) ev := by
  cases hin : s.inputs with
  | nil => exact .inl ⟨rfl, Host.Outcome.next.inj (h.symm.trans (step_nil hin))⟩
  | cons ev rest =>
    by_cases hev : ev = .reserved
    · subst hev
      cases h.symm.trans (step_error hin (select_reserved s))
    · exact .inr ⟨ev, rest, rfl, hev, Host.Outcome.next.inj (h.symm.trans (step_eq_eventUpdate hin hev))⟩

/-! ### The data update, before LEN and at LEN -/

theorem dataUpdate_of_not_end {s : State} (hend : s.idx + 1 ≠ s.len) (b : Byte) :
    dataUpdate b s =
      { s with idx := s.idx + 1, val := s.val + dataTerm (s.idx + 1) b
               csum := s.csum + dataOut (s.idx + 1) s.ctrl b, tx := s.tx ++ [dataOut (s.idx + 1) s.ctrl b] } :=
  finishData_accumulate_advanceIndex hend _ _

/-- The commit takes VAL with this position's term in it (42_data.md R78). -/
theorem dataUpdate_of_end {s : State} (hend : s.idx + 1 = s.len) (b : Byte) :
    dataUpdate b s =
      { s with idx := s.idx + 1, st := .awaitHeader, val := s.val + dataTerm (s.idx + 1) b
               count := if s.cmd = Config.command then s.val + dataTerm (s.idx + 1) b else s.count
               tstamp := if s.cmd = Config.command then s.now else s.tstamp
               upd := if s.cmd = Config.command then true else s.upd
               csum := 0, tx := s.tx ++ [trailerOf s.csum] } := by
  rw [dataUpdate, finishData_of_end (s := accumulate _ (advanceIndex s)) hend, closeFrame_eq]
  exact sendByte_trailerOf _

/-- The four outcomes of a byte's own writes outside the data phase, each with the state and the byte it is for. -/
theorem syncWrites_cases {s : State} (hst : s.st ≠ .inData) (b : Byte) :
    (s.st = .awaitHeader ∧ b = Config.header ∧ syncWrites b s = startFrame s) ∨
    (s.st = .awaitLength ∧ b = Config.length ∧ syncWrites b s = recordLength b s) ∨
    (s.st = .awaitCommand ∧ b = Config.command ∧ syncWrites b s = recordCommand b s) ∨
    syncWrites b s = abandonFrame s := by
  unfold syncWrites
  cases hs : s.st with
  | awaitHeader => by_cases hb : b = Config.header <;> simp [hb]
  | awaitLength => by_cases hb : b = Config.length <;> simp [hb]
  | awaitCommand => by_cases hb : b = Config.command <;> simp [hb]
  | inData => exact absurd hs hst

end Sys2Proof.Machine
end

section
/-! The invariant of the reachable states (10_state.md section 8): every update that a step is made of keeps it. -/

namespace Sys2Proof.Machine

/-! ### The positions of a frame -/

@[simp] theorem dataTerm_posHi (b : Byte) : dataTerm Config.posHi b = hiTerm b := rfl

@[simp] theorem dataTerm_posLo (b : Byte) : dataTerm Config.posLo b = loTerm b := rfl

theorem dataTerm_of_ne {n : Idx} (hhi : n ≠ Config.posHi) (hlo : n ≠ Config.posLo) (b : Byte) : dataTerm n b = 0 := by
  rw [dataTerm, if_neg hhi, if_neg hlo]

/-- The high term leaves the low byte of the reading free (40_step.md R66). -/
theorem hiTerm_low (b : Byte) : (hiTerm b).extractLsb' 0 8 = 0 := by
  have h : hiTerm b = b ++ (0 : Byte) := (BitVec.add_zero (hiTerm b)).symm.trans (hiTerm_add_loTerm b 0)
  rw [h]
  exact BitVec.extractLsb'_append_eq_right

theorem toNat_add_one_of_le {n : Idx} (h : n.toNat ≤ 17) : (n + 1).toNat = n.toNat + 1 :=
  BitVec.toNat_add_of_lt (show n.toNat + 1 < 256 by omega)

theorem idx_eq_iff_toNat_eq (n m : Idx) : n = m ↔ n.toNat = m.toNat := BitVec.toNat_inj.symm

namespace ParserInv

variable {s : State}

/-! ### What it says at the two ends of the data phase -/

theorem len_eq (h : ParserInv s) (hst : s.st = .inData) : s.len = Config.length := (h.inData hst).1

theorem cmd_eq (h : ParserInv s) (hst : s.st = .inData) : s.cmd = Config.command := (h.inData hst).2.1

/-- The next index is LEN exactly when sixteen data bytes have come. -/
theorem idx_add_one_eq_len_iff (h : ParserInv s) (hst : s.st = .inData) : s.idx + 1 = s.len ↔ s.idx.toNat = 16 := by
  rw [h.len_eq hst, idx_eq_iff_toNat_eq, toNat_add_one_of_le h.idx_le, show Config.length.toNat = 17 from rfl]
  omega

/-! ### Updates outside the data phase -/

/-- Taking an event: its clock reading is cut to TS_W bits. -/
theorem accept (h : ParserInv s) (ev : Event) (rest : List Event) : ParserInv (accept ev rest s) :=
  { h with
    now_lt := by
      cases ev with
      | byte b t => exact Nat.mod_lt _ (Nat.two_pow_pos _)
      | _ => exact h.now_lt }

theorem lowerStrobe (h : ParserInv s) : ParserInv (lowerStrobe s) := { h with }

theorem writeControl (h : ParserInv s) (w : Nat) : ParserInv (writeControl w s) :=
  { h with ctrl_lt := Nat.mod_lt _ (Nat.two_pow_pos _) }

/-- In AwaitHeader it constrains no parser register but IDX. -/
theorem of_awaitHeader (hst : s.st = .awaitHeader) (legal : s.params.legal = true) (ctrl : s.ctrl < 2 ^ s.params.ctrlW)
    (tstamp : s.tstamp < 2 ^ s.params.tsW) (now : s.now < 2 ^ s.params.tsW) (idx : s.idx.toNat ≤ 17) :
    ParserInv s where
  legal := legal
  ctrl_lt := ctrl
  tstamp_lt := tstamp
  now_lt := now
  idx_le := idx
  awaitLength h := by simp [hst] at h
  awaitCommand h := by simp [hst] at h
  inData h := by simp [hst] at h
  inDataSum h := by simp [hst] at h
  inDataEarly h := by simp [hst] at h
  inDataHigh h := by simp [hst] at h

theorem resetRegisters (h : ParserInv s) : ParserInv (resetRegisters s) :=
  of_awaitHeader rfl h.legal (Nat.two_pow_pos _) (Nat.two_pow_pos _) h.now_lt (Nat.zero_le _)

theorem sendByte_abandonFrame (h : ParserInv s) (b : Byte) : ParserInv (sendByte b (abandonFrame s)) :=
  of_awaitHeader rfl h.legal h.ctrl_lt h.tstamp_lt h.now_lt h.idx_le

theorem sendByte_startFrame (h : ParserInv s) : ParserInv (sendByte Config.header (startFrame s)) where
  legal := h.legal
  ctrl_lt := h.ctrl_lt
  tstamp_lt := h.tstamp_lt
  now_lt := h.now_lt
  idx_le := Nat.zero_le _
  awaitLength _ := ⟨rfl, rfl, rfl⟩
  awaitCommand hst := by cases hst
  inData hst := by cases hst
  inDataSum hst := by cases hst
  inDataEarly hst := by cases hst
  inDataHigh hst := by cases hst

theorem sendByte_recordLength (h : ParserInv s) (hst : s.st = .awaitLength) :
    ParserInv (sendByte Config.length (recordLength Config.length s)) := by
  obtain ⟨hidx, hval, hcsum⟩ := h.awaitLength hst
  exact
  { legal := h.legal
    ctrl_lt := h.ctrl_lt
    tstamp_lt := h.tstamp_lt
    now_lt := h.now_lt
    idx_le := h.idx_le
    awaitLength := fun h' => by cases h'
    awaitCommand := fun _ => ⟨hidx, hval, congrArg (· + Config.length) hcsum, rfl⟩
    inData := fun h' => by cases h'
    inDataSum := fun h' => by cases h'
    inDataEarly := fun h' => by cases h'
    inDataHigh := fun h' => by cases h' }

/-- The data phase begins with IDX = 0: no data byte is sent, CSUM is the head's sum. -/
theorem sendByte_recordCommand (h : ParserInv s) (hst : s.st = .awaitCommand) :
    ParserInv (sendByte Config.command (recordCommand Config.command s)) := by
  obtain ⟨hidx, hval, hcsum, hlen⟩ := h.awaitCommand hst
  exact
  { legal := h.legal
    ctrl_lt := h.ctrl_lt
    tstamp_lt := h.tstamp_lt
    now_lt := h.now_lt
    idx_le := h.idx_le
    awaitLength := fun h' => by cases h'
    awaitCommand := fun h' => by cases h'
    inData := fun _ => ⟨hlen, rfl, by simp [hidx]⟩
    inDataSum := fun _ => by simp [hidx, hcsum, lastBytes_zero]
    inDataEarly := fun _ _ => hval
    inDataHigh := fun _ h3 => by simp [hidx] at h3 }

theorem syncWrites (h : ParserInv s) (hst : s.st ≠ .inData) (b : Byte) : ParserInv (sendByte b (syncWrites b s)) := by
  rcases syncWrites_cases hst b with ⟨-, rfl, hw⟩ | ⟨hs, rfl, hw⟩ | ⟨hs, rfl, hw⟩ | hw <;> rw [hw]
  · exact h.sendByte_startFrame
  · exact h.sendByte_recordLength hs
  · exact h.sendByte_recordCommand hs
  · exact h.sendByte_abandonFrame b

/-! ### The data update -/

/-- At a position before LEN the byte sent is one more of the data bytes that CSUM covers, and VAL is zero until
position 3, whose term has no low byte. -/
theorem dataUpdate_of_not_end (h : ParserInv s) (hst : s.st = .inData) (hend : s.idx + 1 ≠ s.len) (b : Byte) :
    ParserInv (dataUpdate b s) := by
  obtain ⟨hlen, hcmd, hidx⟩ := h.inData hst
  obtain ⟨hsent, hcsum⟩ := h.inDataSum hst
  have hne : s.idx.toNat ≠ 16 := fun h16 => hend ((h.idx_add_one_eq_len_iff hst).mpr h16)
  have hnext : (s.idx + 1).toNat = s.idx.toNat + 1 := toNat_add_one_of_le h.idx_le
  rw [Machine.dataUpdate_of_not_end hend]
  exact
  { legal := h.legal
    ctrl_lt := h.ctrl_lt
    tstamp_lt := h.tstamp_lt
    now_lt := h.now_lt
    idx_le := by rw [hnext]; omega
    awaitLength := fun h' => by simp [hst] at h'
    awaitCommand := fun h' => by simp [hst] at h'
    inData := fun _ => ⟨hlen, hcmd, by rw [hnext]; omega⟩
    inDataSum := fun _ => by
      rw [hnext, List.length_append, List.length_singleton, lastBytes_append_one, byteSum_append, hcsum]
      exact ⟨by omega, by simp [BitVec.add_assoc]⟩
    inDataEarly := fun _ h3 => by
      rw [hnext] at h3
      have hpos (m : Idx) (hm : 3 ≤ m.toNat) : s.idx + 1 ≠ m := by
        rw [Ne, idx_eq_iff_toNat_eq, hnext]
        omega
      rw [dataTerm_of_ne (hpos _ (by decide)) (hpos _ (by decide)), h.inDataEarly hst (by omega)]
      rfl
    inDataHigh := fun _ h3 => by
      have h3' : s.idx + 1 = Config.posHi := h3
      have hidx2 : s.idx.toNat + 1 = 3 := hnext.symm.trans (congrArg BitVec.toNat h3)
      have hval : s.val = 0 := h.inDataEarly hst (by omega)
      rw [hval, h3', dataTerm_posHi, BitVec.ofNat_eq_ofNat, BitVec.zero_add]
      exact hiTerm_low b }

/-- At LEN the parser is back in AwaitHeader; what the commit writes to TSTAMP is `now`. -/
theorem dataUpdate_of_end (h : ParserInv s) (hst : s.st = .inData) (hend : s.idx + 1 = s.len) (b : Byte) :
    ParserInv (dataUpdate b s) := by
  have htime : (if s.cmd = Config.command then s.now else s.tstamp) < 2 ^ s.params.tsW := by
    rw [if_pos (h.cmd_eq hst)]
    exact h.now_lt
  have hidx : (s.idx + 1).toNat ≤ 17 := by
    rw [hend, h.len_eq hst]
    decide
  rw [Machine.dataUpdate_of_end hend]
  exact of_awaitHeader rfl h.legal h.ctrl_lt htime h.now_lt hidx

theorem eventUpdate (h : ParserInv s) {ev : Event} : ParserInv (eventUpdate s ev) := by
  cases ev with
  | byte b t =>
    by_cases hst : s.st = .inData
    · rw [eventUpdate_byte_of_inData hst]
      by_cases hend : s.idx + 1 = s.len
      · exact h.dataUpdate_of_end hst hend b
      · exact h.dataUpdate_of_not_end hst hend b
    · rw [eventUpdate_byte_of_not_inData hst]
      exact h.syncWrites hst b
  | ctrlw w => exact h.writeControl w
  | reset => exact h.resetRegisters
  | reserved => exact h

end ParserInv

/-! ### The end of a frame, as every run reaches it -/

/-- With the recorded bytes of a frame, at position 17: VAL takes no term there, and the frame is committed (42_data.md
R82). -/
theorem dataUpdate_of_frame_end {s : State} (hlen : s.len = Config.length) (hcmd : s.cmd = Config.command)
    (hidx : s.idx + 1 = Config.length) (b : Byte) :
    dataUpdate b s =
      { s with idx := Config.length, st := .awaitHeader, count := s.val, tstamp := s.now, upd := true, csum := 0
               tx := s.tx ++ [trailerOf s.csum] } := by
  have hterm : s.val + dataTerm Config.length b = s.val := BitVec.add_zero s.val
  rw [dataUpdate_of_end (hidx.trans hlen.symm), if_pos hcmd, if_pos hcmd, if_pos hcmd, hidx, hterm]

/-- Settles O43: a step lowers the strobe, or takes an event and makes its update, and each of these keeps it. -/
theorem stepKeepsParserInv : Obligations.StepKeepsParserInv := by
  intro s t h hstep
  rcases step_next_cases hstep with ⟨-, rfl⟩ | ⟨ev, rest, -, -, rfl⟩
  · exact h.lowerStrobe
  · exact (h.accept ev rest).eventUpdate

/-- Settles O44: after reset the parser is in AwaitHeader and every register is 0; the defaults are evaluated. -/
theorem resetHasParserInv : Obligations.ResetHasParserInv :=
  ⟨fun _ hp => ParserInv.of_awaitHeader rfl hp (Nat.two_pow_pos _) (Nat.two_pow_pos _) (Nat.two_pow_pos _)
    (Nat.zero_le _), rfl, rfl⟩

/-- Settles O46: the invariant gives LEN, CMD and position 17, at which VAL takes no term, and the commit takes VAL. -/
theorem frameEndLeavesTheClosedState : Obligations.FrameEndLeavesTheClosedState := by
  intro s b t rest h hst hend hin
  have hlen := h.len_eq hst
  have hcmd := h.cmd_eq hst
  refine ⟨_, step_eq_eventUpdate hin (by simp), ?_⟩
  rw [eventUpdate_byte_of_inData (by exact hst), dataUpdate_of_frame_end (by exact hlen) (by exact hcmd)
    (by exact hend.trans hlen)]
  exact ⟨rfl, rfl, rfl, rfl, rfl, rfl, hlen, hcmd, rfl⟩

end Sys2Proof.Machine
end

section
/-! Single operations and steps, read off their equations: the update of R78 line by line, the state graph, the writes
of each operation, the control write, RESET, BAD.STATE, and the reader's age. -/

namespace Sys2Proof.Machine

/-! ### What the step runs -/

/-- Settles O7: `step` on the operation that the event's key decodes to; `accept` is that taking of the event. -/
theorem stepRunsTheDecodedOperation : Obligations.StepRunsTheDecodedOperation :=
  fun _ _ _ _ hin hsel => step_ok hin hsel

/-- Settles O9: with no event the step lowers the strobe and does nothing else. -/
theorem noEventHoldsEverything : Obligations.NoEventHoldsEverything :=
  fun _ hin => step_nil hin

/-- Settles O24: BAD.STATE abandons the frame and sends the byte; a code's state is the one that it names. -/
theorem badStateReturnsToAwaitHeader : Obligations.BadStateReturnsToAwaitHeader :=
  ⟨fun b s => congrArg Host.Outcome.next (sendByte_abandonFrame b s),
    fun c => ⟨stOfCode c, stCode_stOfCode c, rfl⟩⟩

/-- Settles O35: the write keeps CTRL_W bits of the value, which is all of a well-formed one. -/
theorem ctrlWriteReplacesCtrl : Obligations.CtrlWriteReplacesCtrl := by
  refine ⟨fun w s => rfl, fun w s hwf => ?_, fun s w rest hin => step_ctrlw hin⟩
  have hkept : ctrlBits s.params w = w := Nat.mod_eq_of_lt (of_decide_eq_true hwf)
  exact congrArg (fun c => Host.Outcome.next { s with ctrl := c }) hkept

/-- Settles O40: the reset values, written over the nine registers of the state that has taken the event. -/
theorem resetWritesAllNineRegisters : Obligations.ResetWritesAllNineRegisters :=
  ⟨fun _ => rfl, fun _ _ hin => step_reset hin⟩

/-! ### The complete data update (42_data.md R78) -/

/-- R78's lines for positions 3 and 4, as one term of VAL and one byte to send. -/
theorem lineLo_lineHi (n : Idx) (b : Byte) (c : Nat) (v : DataVars) (hout : v.out = b) :
    lineLo n b c (lineHi n b c v) = { v with val := v.val + dataTerm n b, out := dataOut n c b } := by
  unfold lineLo lineHi dataTerm dataOut
  by_cases hhi : n = Config.posHi
  · simp only [hhi, if_true, if_neg posLo_ne_posHi.symm, outAtHi_eq_ite, hout]
    rfl
  · by_cases hlo : n = Config.posLo
    · simp only [hlo, if_true, if_neg posLo_ne_posHi, outAtLo_eq_ite, hout]
      rfl
    · simp only [if_neg hhi, if_neg hlo, ← hout, BitVec.ofNat_eq_ofNat, BitVec.add_zero]

/-- The data update is R78, line by line. -/
theorem dataUpdate_eq_completeUpdate (b : Byte) (s : State) : dataUpdate b s = completeUpdate b s := by
  unfold completeUpdate
  simp only [lineLo_lineHi]
  by_cases hend : s.idx + 1 = s.len
  · rw [dataUpdate_of_end hend]
    have hcsum : s.csum + (~~~s.csum + 1) = 0 := add_trailerOf s.csum
    by_cases hcmd : s.cmd = Config.command
    · simp only [lineEnd, if_pos hend, if_pos hcmd, hcsum]
      rfl
    · simp only [lineEnd, if_pos hend, if_neg hcmd, hcsum]
      rfl
  · rw [dataUpdate_of_not_end hend]
    simp only [lineEnd, if_neg hend]

/-- Settles O23: the step is the data update; at each index, so is the operation that the index selects. -/
theorem inDataStepIsTheCompleteUpdate : Obligations.InDataStepIsTheCompleteUpdate := by
  refine ⟨fun s b t rest hst hin => ?step, fun b s hhi => ?datHi, fun b s hlo => ?datLo,
    fun n b s hhi hlo => ?other⟩ <;>
    rw [← dataUpdate_eq_completeUpdate]
  case step => exact step_inData hst hin
  case datHi =>
    unfold dataUpdate
    rw [hhi]
    rfl
  case datLo =>
    unfold dataUpdate
    rw [hlo]
    rfl
  case other =>
    unfold dataUpdate
    rw [dataOut_of_ne hhi hlo, dataTerm_of_ne hhi hlo, accumulate_zero]
    exact ⟨execDatEnd_eq b s, rfl⟩

/-! ### The state graph (40_step.md section 3) -/

/-- Settles O26: by parser state and the test made there; the two other events have one outcome each. -/
theorem stateGraphIsComplete : Obligations.StateGraphIsComplete := by
  refine fun s => ⟨fun b t rest hin => ?byte, fun w rest hin => ⟨_, step_ctrlw hin, rfl⟩,
    fun rest hin => ⟨_, step_reset hin, rfl⟩⟩
  cases hst : s.st with
  | awaitHeader =>
    by_cases hb : b = Config.header
    · exact ⟨_, step_hdrMatch hst hin hb, (if_pos hb).symm⟩
    · exact ⟨_, step_hdrPass hst hin hb, (if_neg hb).symm⟩
  | awaitLength =>
    by_cases hb : b = Config.length
    · exact ⟨_, step_lenMatch hst hin hb, (if_pos hb).symm⟩
    · exact ⟨_, step_lenAbort hst hin hb, (if_neg hb).symm⟩
  | awaitCommand =>
    by_cases hb : b = Config.command
    · exact ⟨_, step_cmdMatch hst hin hb, (if_pos hb).symm⟩
    · exact ⟨_, step_cmdAbort hst hin hb, (if_neg hb).symm⟩
  | inData =>
    by_cases hend : s.idx + 1 = s.len
    · exact ⟨_, step_inData_of_end hst hin hend, (if_pos hend).symm⟩
    · exact ⟨_, step_inData_of_not_end hst hin hend, hst.trans (if_neg hend).symm⟩

/-! ### The reader's age (43_control_sensor.md R89) -/

/-- The age of a TSTAMP of TS_W bits, in natural numbers. -/
theorem ageOf_of_lt {p : Params} {tstamp : Nat} (h : tstamp < 2 ^ p.tsW) (tNow : Nat) :
    ageOf p tNow tstamp = (tNow + 2 ^ p.tsW - tstamp) % 2 ^ p.tsW := by
  have hcast : ((tNow + 2 ^ p.tsW - tstamp : Nat) : Int) = tNow - tstamp + 2 ^ p.tsW := by
    rw [Nat.cast_sub (by omega)]
    push_cast
    ring
  rw [ageOf, ← Int.add_emod_right, ← hcast]
  exact_mod_cast Int.toNat_natCast _

/-- Settles O39: the age is the stated remainder, and the comparison with it is strict. -/
theorem freshnessIsAStrictModularAge : Obligations.FreshnessIsAStrictModularAge := by
  refine fun interval tNow s => ⟨fun h => ?_, decide_eq_false (Nat.lt_irrefl _), decide_eq_true (Nat.lt_succ_self _)⟩
  rw [freshWithin, decide_eq_true_iff, ageOf_of_lt h]

/-- Settles O42: COUNT and TSTAMP are 0 after reset, and the age of a TSTAMP of 0 is the clock. -/
theorem resetReadingCountsAsFresh : Obligations.ResetReadingCountsAsFresh := by
  refine fun p => ⟨rfl, fun interval tNow h => ?_⟩
  have hage : ageOf p tNow 0 = tNow := by
    rw [ageOf_of_lt (Nat.two_pow_pos _), Nat.sub_zero, Nat.add_mod_right, Nat.mod_eq_of_lt h]
  rw [freshWithin, decide_eq_true_iff]
  exact iff_of_eq (congrArg (· < interval) hage)

/-! ### What an operation writes -/

theorem finishData_params (out : Byte) (s : State) : (finishData out s).params = s.params := by
  by_cases h : s.idx = s.len
  · rw [finishData_of_end h, sendByte_params, closeFrame_params]
  · rw [finishData_of_not_end h, sendByte_params]

theorem finishData_now (out : Byte) (s : State) : (finishData out s).now = s.now := by
  by_cases h : s.idx = s.len
  · rw [finishData_of_end h, sendByte_now, closeFrame_now]
  · rw [finishData_of_not_end h, sendByte_now]

theorem exists_finishData_tx (out : Byte) (s : State) : ∃ sent, (finishData out s).tx = s.tx ++ [sent] := by
  by_cases h : s.idx = s.len
  · exact ⟨_, by rw [finishData_of_end h, sendByte_tx, closeFrame_tx]⟩
  · exact ⟨_, by rw [finishData_of_not_end h, sendByte_tx]⟩

/-- The widths, the queue and the clock port are as before. -/
structure KeepsBoundary (s t : State) : Prop where
  params : t.params = s.params
  inputs : t.inputs = s.inputs
  now : t.now = s.now

theorem keepsBoundary_finishData (out : Byte) {s t : State} (h : KeepsBoundary s t) :
    KeepsBoundary s (finishData out t) :=
  ⟨(finishData_params out t).trans h.params, (finishData_inputs out t).trans h.inputs,
    (finishData_now out t).trans h.now⟩

theorem exec_keepsBoundary {i : Instr} {s t : State} (h : exec i s = .next t) : KeepsBoundary s t := by
  cases i with
  | datHi b => exact Host.Outcome.next.inj h ▸ keepsBoundary_finishData _ ⟨rfl, rfl, rfl⟩
  | datLo b => exact Host.Outcome.next.inj h ▸ keepsBoundary_finishData _ ⟨rfl, rfl, rfl⟩
  | datPass n b => exact Host.Outcome.next.inj h ▸ keepsBoundary_finishData _ ⟨rfl, rfl, rfl⟩
  | datEnd b =>
    exact Host.Outcome.next.inj ((execDatEnd_eq b s).symm.trans h) ▸ keepsBoundary_finishData _ ⟨rfl, rfl, rfl⟩
  | _ => exact Host.Outcome.next.inj h ▸ ⟨rfl, rfl, rfl⟩

theorem exists_exec_byteOp_tx {i : Instr} (hbyte : i.isByteOp = true) {s t : State} (h : exec i s = .next t) :
    ∃ out, t.tx = s.tx ++ [out] := by
  cases i with
  | reset => cases hbyte
  | ctrlWrite => cases hbyte
  | datHi b => exact Host.Outcome.next.inj h ▸ exists_finishData_tx _ _
  | datLo b => exact Host.Outcome.next.inj h ▸ exists_finishData_tx _ _
  | datPass n b => exact Host.Outcome.next.inj h ▸ exists_finishData_tx _ _
  | datEnd b => exact Host.Outcome.next.inj ((execDatEnd_eq b s).symm.trans h) ▸ exists_finishData_tx _ _
  | _ => exact Host.Outcome.next.inj h ▸ ⟨_, rfl⟩

theorem exec_not_byteOp_tx {i : Instr} (hbyte : i.isByteOp = false) {s t : State} (h : exec i s = .next t) :
    t.tx = s.tx := by
  cases i with
  | reset => exact Host.Outcome.next.inj h ▸ rfl
  | ctrlWrite w => exact Host.Outcome.next.inj h ▸ rfl
  | _ => cases hbyte

/-- A register outside the "Writes:" line of an operation's rule is as before, under the rule's condition on LEN. -/
theorem sameReg_of_exec {i : Instr} {s t : State} (hrule : ruleApplies i s) (h : exec i s = .next t) {r : Reg}
    (hr : r ∉ writes i) : sameReg r s t := by
  cases i with
  | datHi b =>
    obtain rfl := Host.Outcome.next.inj ((datHiTakesTheHighByte.1 b s hrule).symm.trans h)
    cases r <;> simp [writes] at hr <;> rfl
  | datLo b =>
    obtain rfl := Host.Outcome.next.inj ((datLoTakesTheLowByte.1 b s hrule).symm.trans h)
    cases r <;> simp [writes] at hr <;> rfl
  | datEnd b =>
    obtain rfl := Host.Outcome.next.inj ((datEndClosesTheFrame.1 b s hrule).symm.trans h)
    cases r <;> simp [writes] at hr <;> rfl
  | datPass n b =>
    obtain rfl := Host.Outcome.next.inj ((datPassRelays.1 n b s hrule).symm.trans h)
    cases r <;> simp [writes] at hr <;> rfl
  | reset => cases r <;> simp [writes] at hr
  | _ =>
    obtain rfl := Host.Outcome.next.inj h
    cases r <;> simp [writes] at hr <;> rfl

theorem upd_of_exec {i : Instr} {s t : State} (hrule : ruleApplies i s) (h : exec i s = .next t)
    (hi : ∀ b, i ≠ .datEnd b) : t.upd = s.upd := by
  cases i with
  | datHi b => exact Host.Outcome.next.inj ((datHiTakesTheHighByte.1 b s hrule).symm.trans h) ▸ rfl
  | datLo b => exact Host.Outcome.next.inj ((datLoTakesTheLowByte.1 b s hrule).symm.trans h) ▸ rfl
  | datEnd b => exact absurd rfl (hi b)
  | datPass n b => exact Host.Outcome.next.inj ((datPassRelays.1 n b s hrule).symm.trans h) ▸ rfl
  | _ => exact Host.Outcome.next.inj h ▸ rfl

/-- Settles O30: the registers and the strobe by operation, on its whole effect; the boundary whatever LEN is. -/
theorem operationsWriteOnlyTheListedRegisters : Obligations.OperationsWriteOnlyTheListedRegisters := by
  intro i s t hrule h
  obtain ⟨hparams, hinputs, hnow⟩ := exec_keepsBoundary h
  exact ⟨fun r => sameReg_of_exec hrule h, hinputs, hnow, hparams, fun hb => exists_exec_byteOp_tx hb h,
    fun hb => exec_not_byteOp_tx hb h, upd_of_exec hrule h⟩

end Sys2Proof.Machine
end

section
/-! Steps and runs compared: what an update neither reads nor writes may be anything (20_memory.md section 6), the
events and the bytes of a run are counted, and the ports of one boundary are a run of their events (30_encoding.md
section 7). -/

namespace Sys2Proof.Machine

/-! ### What the writes of a byte outside the data phase neither read nor write -/

/-- The parser's six registers of `s`, on whatever else `o` holds. -/
def withParserOf (s o : State) : State :=
  { o with st := s.st, idx := s.idx, val := s.val, csum := s.csum, len := s.len, cmd := s.cmd }

theorem syncWrites_withParserOf (b : Byte) (s o : State) :
    syncWrites b (withParserOf s o) = withParserOf (syncWrites b s) o := by
  unfold syncWrites
  rw [show (withParserOf s o).st = s.st from rfl]
  cases s.st with
  | awaitHeader => by_cases hb : b = Config.header <;> simp only [hb, if_true, if_false] <;> rfl
  | awaitLength => by_cases hb : b = Config.length <;> simp only [hb, if_true, if_false] <;> rfl
  | awaitCommand => by_cases hb : b = Config.command <;> simp only [hb, if_true, if_false] <;> rfl
  | inData => rfl

/-- So all that is not the parser's is as before. -/
theorem syncWrites_eq_withParserOf (b : Byte) (s : State) : syncWrites b s = withParserOf (syncWrites b s) s :=
  syncWrites_withParserOf b s s

theorem syncWrites_with_ctrl (b : Byte) (c : Nat) (s : State) :
    syncWrites b { s with ctrl := c } = { syncWrites b s with ctrl := c } := by
  rw [syncWrites_eq_withParserOf b s]
  exact syncWrites_withParserOf b s { s with ctrl := c }

theorem syncWrites_with_inputs (b : Byte) (q : List Event) (s : State) :
    syncWrites b { s with inputs := q } = { syncWrites b s with inputs := q } := by
  rw [syncWrites_eq_withParserOf b s]
  exact syncWrites_withParserOf b s { s with inputs := q }

theorem syncWrites_with_clock (b : Byte) (n t : Nat) (s : State) :
    syncWrites b { s with now := n, tstamp := t } = { syncWrites b s with now := n, tstamp := t } := by
  rw [syncWrites_eq_withParserOf b s]
  exact syncWrites_withParserOf b s { s with now := n, tstamp := t }

/-! ### The widths and the queue -/

theorem eventUpdate_keepsBoundary (s : State) (ev : Event) : KeepsBoundary s (eventUpdate s ev) := by
  cases ev with
  | byte b t =>
    by_cases hst : s.st = .inData
    · rw [eventUpdate_byte_of_inData hst]
      exact keepsBoundary_finishData _ ⟨rfl, rfl, rfl⟩
    · rw [eventUpdate_byte_of_not_inData hst, syncWrites_eq_withParserOf]
      exact ⟨rfl, rfl, rfl⟩
  | _ => exact ⟨rfl, rfl, rfl⟩

/-- A step takes the first pending event, if there is one. -/
theorem step_inputs {s u : State} (h : step s = .next u) : u.inputs = s.inputs.tail := by
  rcases step_next_cases h with ⟨hin, rfl⟩ | ⟨ev, rest, hin, -, rfl⟩
  · exact hin.trans (congrArg List.tail hin).symm
  · exact (eventUpdate_keepsBoundary _ _).inputs.trans (congrArg List.tail hin).symm

theorem step_params {s u : State} (h : step s = .next u) : u.params = s.params := by
  rcases step_next_cases h with ⟨-, rfl⟩ | ⟨ev, rest, -, -, rfl⟩
  · rfl
  · exact (eventUpdate_keepsBoundary _ _).params

/-- Settles O45: no operation writes the widths, nor does a step; a run is by induction on its length. -/
theorem widthsAreFixed : Obligations.WidthsAreFixed := by
  refine ⟨fun i s t h => (exec_keepsBoundary h).params, fun n => ?_⟩
  induction n with
  | zero => exact fun s u h => Host.Outcome.next.inj h ▸ rfl
  | succ n ih =>
    intro s u h
    obtain ⟨v, hstep, hrun⟩ := exists_step_of_stepN_succ h
    exact (ih v u hrun).trans (step_params hstep)

/-! ### Bytes sent and bytes taken -/

/-- A step sends one byte if the event that it takes is a byte, and none if not. -/
theorem exists_step_tx {s u : State} (h : step s = .next u) :
    ∃ outs : List Byte, u.tx = s.tx ++ outs ∧
      outs.length = ((s.inputs.take 1).filter (fun ev => evCode ev = 0)).length := by
  rcases step_next_cases h with ⟨hin, rfl⟩ | ⟨ev, rest, hin, hev, rfl⟩
  · exact ⟨[], by simp, by simp [hin]⟩
  · cases ev with
    | byte b t =>
      obtain ⟨w, hstep, htx, -⟩ := exists_step_byte_eq_sendByte hin
      refine ⟨[outgoingByte s b], ?_, by simp [hin, evCode]⟩
      rw [← Host.Outcome.next.inj (hstep.symm.trans h), sendByte_tx, htx]
    | ctrlw w => exact ⟨[], by simp [eventUpdate], by simp [hin, evCode]⟩
    | reset => exact ⟨[], by simp [eventUpdate], by simp [hin, evCode]⟩
    | reserved => exact absurd rfl hev

/-- Settles O29: by induction on the number of steps, each of which takes one event and sends a byte for a byte. -/
theorem oneByteOutPerByteIn : Obligations.OneByteOutPerByteIn := by
  intro n
  induction n with
  | zero =>
    intro s u h
    obtain rfl := Host.Outcome.next.inj h
    exact ⟨rfl, [], (List.append_nil _).symm, rfl⟩
  | succ n ih =>
    intro s u h
    obtain ⟨v, hstep, hrun⟩ := exists_step_of_stepN_succ h
    obtain ⟨hinputs, outs, htx, hlen⟩ := ih v u hrun
    obtain ⟨first, htx', hlen'⟩ := exists_step_tx hstep
    rw [step_inputs hstep] at hinputs hlen
    refine ⟨hinputs.trans List.drop_tail, first ++ outs, by rw [htx, htx', List.append_assoc], ?_⟩
    have htake : s.inputs.take (n + 1) = s.inputs.take 1 ++ s.inputs.tail.take n := by
      rw [Nat.add_comm, List.take_add, List.drop_one]
    rw [List.length_append, hlen, hlen', htake, List.filter_append, List.length_append]

/-! ### The optional update (43_control_sensor.md section 2) -/

/-- The step of a byte that closes a frame whose command is 0x0B. -/
theorem step_of_commit {s : State} {b : Byte} {t : Nat} {rest : List Event} (hst : s.st = .inData)
    (hend : s.idx + 1 = s.len) (hcmd : s.cmd = Config.command) (hin : s.inputs = .byte b t :: rest) :
    ∃ u, step s = .next u ∧ u.upd = true ∧ u.count = u.val ∧ u.tstamp = timeBits s.params t := by
  refine ⟨_, step_eq_eventUpdate hin (by simp), ?_⟩
  rw [eventUpdate_byte_of_inData (by exact hst), dataUpdate_of_end (by exact hend)]
  exact ⟨if_pos hcmd, if_pos hcmd, if_pos hcmd⟩

/-- Any other step leaves the strobe low, and RESET apart holds the reading. -/
theorem step_of_no_commit {s u : State} (h : step s = .next u)
    (hno : ¬ (s.st = .inData ∧ s.idx + 1 = s.len ∧ s.cmd = Config.command ∧
      ∃ (b : Byte) (t : Nat) (rest : List Event), s.inputs = .byte b t :: rest)) :
    u.upd = false ∧ ((∀ rest : List Event, s.inputs ≠ .reset :: rest) → u.count = s.count ∧ u.tstamp = s.tstamp) := by
  rcases step_next_cases h with ⟨-, rfl⟩ | ⟨ev, rest, hin, hev, rfl⟩
  · exact ⟨rfl, fun _ => ⟨rfl, rfl⟩⟩
  · cases ev with
    | byte b t =>
      by_cases hst : s.st = .inData
      · rw [eventUpdate_byte_of_inData (by exact hst)]
        by_cases hend : s.idx + 1 = s.len
        · have hcmd : s.cmd ≠ Config.command := fun hc => hno ⟨hst, hend, hc, b, t, rest, hin⟩
          rw [dataUpdate_of_end (by exact hend)]
          exact ⟨if_neg hcmd, fun _ => ⟨if_neg hcmd, if_neg hcmd⟩⟩
        · rw [dataUpdate_of_not_end (by exact hend)]
          exact ⟨rfl, fun _ => ⟨rfl, rfl⟩⟩
      · rw [eventUpdate_byte_of_not_inData (by exact hst), syncWrites_eq_withParserOf]
        exact ⟨rfl, fun _ => ⟨rfl, rfl⟩⟩
    | ctrlw w => exact ⟨rfl, fun _ => ⟨rfl, rfl⟩⟩
    | reset => exact ⟨rfl, fun hreset => absurd hin (hreset rest)⟩
    | reserved => exact absurd rfl hev

/-- Settles O38: a step either is the one that closes a frame with its command, or commits nothing. -/
theorem commitIsOneWriteWithOneStrobe : Obligations.CommitIsOneWriteWithOneStrobe := by
  intro s u h
  by_cases hc : s.st = .inData ∧ s.idx + 1 = s.len ∧ s.cmd = Config.command ∧
      ∃ (b : Byte) (t : Nat) (rest : List Event), s.inputs = .byte b t :: rest
  · obtain ⟨hst, hend, hcmd, b, t, rest, hin⟩ := hc
    obtain ⟨v, hstep, hupd, hcount, htstamp⟩ := step_of_commit hst hend hcmd hin
    obtain rfl := Host.Outcome.next.inj (hstep.symm.trans h)
    exact ⟨iff_of_true hupd ⟨hst, hend, hcmd, b, t, rest, hin⟩, fun _ => ⟨hcount, b, t, rest, hin, htstamp⟩,
      fun hlow => absurd (hupd.symm.trans hlow) (by decide)⟩
  · obtain ⟨hupd, hheld⟩ := step_of_no_commit h hc
    have hlow : u.upd ≠ true := by simp [hupd]
    exact ⟨iff_of_false hlow hc, fun hhigh => absurd hhigh hlow, fun _ => hheld⟩

/-! ### CTRL (43_control_sensor.md R85) -/

/-- Two data updates that differ in CTRL differ in the byte sent and the checksum alone, and only at positions 3
and 4. -/
theorem dataUpdate_with_ctrl (b : Byte) (c : Nat) (s : State) :
    dataUpdate b { s with ctrl := c } =
        { dataUpdate b s with ctrl := c, csum := (dataUpdate b { s with ctrl := c }).csum
                              tx := (dataUpdate b { s with ctrl := c }).tx } ∧
      (¬ (s.idx + 1 = Config.posHi ∨ s.idx + 1 = Config.posLo) →
        (dataUpdate b { s with ctrl := c }).csum = (dataUpdate b s).csum ∧
          (dataUpdate b { s with ctrl := c }).tx = (dataUpdate b s).tx) := by
  by_cases hend : s.idx + 1 = s.len
  · rw [dataUpdate_of_end hend, dataUpdate_of_end (s := { s with ctrl := c }) hend]
    exact ⟨rfl, fun _ => ⟨rfl, rfl⟩⟩
  · rw [dataUpdate_of_not_end hend, dataUpdate_of_not_end (s := { s with ctrl := c }) hend]
    refine ⟨rfl, fun hpos => ?_⟩
    obtain ⟨hhi, hlo⟩ := not_or.mp hpos
    simp only [dataOut_of_ne hhi hlo, and_self]

/-- Settles O37: by parser state; outside the data phase no write reads CTRL, and O27 has the clauses for CTRL = 0. -/
theorem ctrlActsAtPositionsThreeAndFourOnly : Obligations.CtrlActsAtPositionsThreeAndFourOnly := by
  intro s c b t rest hin
  obtain ⟨u, hstep, -, -, -, -, -, hzero⟩ := outgoingByteOfEveryStep s b t rest hin
  have hstep' := step_eq_eventUpdate (s := { s with ctrl := c }) hin (by simp)
  obtain rfl := Host.Outcome.next.inj ((step_eq_eventUpdate hin (by simp)).symm.trans hstep)
  refine ⟨_, _, hstep, hstep', ?_⟩
  suffices h : _ ∧ _ from ⟨h.1, h.2, fun hst hend _ => hzero hst hend, fun hst hend _ => hzero hst hend⟩
  by_cases hst : s.st = .inData
  · rw [eventUpdate_byte_of_inData (by exact hst), eventUpdate_byte_of_inData (by exact hst)]
    obtain ⟨hdiff, hsame⟩ := dataUpdate_with_ctrl b c (accept (.byte b t) rest s)
    exact ⟨hdiff, fun hno => hsame fun hpos => hno ⟨hst, hpos⟩⟩
  · rw [eventUpdate_byte_of_not_inData (by exact hst), eventUpdate_byte_of_not_inData (by exact hst)]
    have hwrites : syncWrites b (accept (.byte b t) rest { s with ctrl := c }) =
        { syncWrites b (accept (.byte b t) rest s) with ctrl := c } :=
      syncWrites_with_ctrl b c (accept (.byte b t) rest s)
    rw [hwrites]
    exact ⟨rfl, fun _ => ⟨rfl, rfl⟩⟩

/-! ### The clock and the events still pending -/

theorem dataUpdate_with_inputs (b : Byte) (q : List Event) (s : State) :
    dataUpdate b { s with inputs := q } = { dataUpdate b s with inputs := q } := by
  by_cases hend : s.idx + 1 = s.len
  · rw [dataUpdate_of_end hend, dataUpdate_of_end (s := { s with inputs := q }) hend]
  · rw [dataUpdate_of_not_end hend, dataUpdate_of_not_end (s := { s with inputs := q }) hend]

/-- The clock reaches TSTAMP and nothing else. -/
theorem dataUpdate_with_clock (b : Byte) (n t : Nat) (s : State) :
    dataUpdate b { s with now := n, tstamp := t } =
      { dataUpdate b s with now := n, tstamp := (dataUpdate b { s with now := n, tstamp := t }).tstamp } := by
  by_cases hend : s.idx + 1 = s.len
  · rw [dataUpdate_of_end hend, dataUpdate_of_end (s := { s with now := n, tstamp := t }) hend]
  · rw [dataUpdate_of_not_end hend, dataUpdate_of_not_end (s := { s with now := n, tstamp := t }) hend]

theorem eventUpdate_with_inputs (ev : Event) (q : List Event) (s : State) :
    eventUpdate { s with inputs := q } ev = { eventUpdate s ev with inputs := q } := by
  cases ev with
  | byte b t =>
    by_cases hst : s.st = .inData
    · rw [eventUpdate_byte_of_inData hst, eventUpdate_byte_of_inData (s := { s with inputs := q }) hst,
        dataUpdate_with_inputs]
    · rw [eventUpdate_byte_of_not_inData hst, eventUpdate_byte_of_not_inData (s := { s with inputs := q }) hst,
        syncWrites_with_inputs]
      rfl
  | _ => rfl

theorem eventUpdate_with_clock (ev : Event) (n t : Nat) (s : State) :
    eventUpdate { s with now := n, tstamp := t } ev =
      { eventUpdate s ev with now := n, tstamp := (eventUpdate { s with now := n, tstamp := t } ev).tstamp } := by
  cases ev with
  | byte b _ =>
    by_cases hst : s.st = .inData
    · rw [eventUpdate_byte_of_inData hst, eventUpdate_byte_of_inData (s := { s with now := n, tstamp := t }) hst]
      exact dataUpdate_with_clock b n t s
    · rw [eventUpdate_byte_of_not_inData hst,
        eventUpdate_byte_of_not_inData (s := { s with now := n, tstamp := t }) hst, syncWrites_with_clock]
      rfl
  | _ => rfl

/-- The events after the one that a step takes have no part in it. -/
theorem step_with_later_events {s u : State} {ev : Event} {rest : List Event} (hin : s.inputs = ev :: rest)
    (h : step s = .next u) (rest' : List Event) :
    step { s with inputs := ev :: rest' } = .next { u with inputs := rest' } := by
  rcases step_next_cases h with ⟨hnil, -⟩ | ⟨ev', rest₁, hin', hev, rfl⟩
  · cases hin.symm.trans hnil
  · obtain ⟨rfl, rfl⟩ := List.cons.inj (hin.symm.trans hin')
    rw [step_eq_eventUpdate rfl hev]
    exact congrArg Host.Outcome.next (eventUpdate_with_inputs ev rest' (accept ev rest s))

/-- Settles O53: by induction on the events that the run takes. -/
theorem laterEventsHaveNoInfluence : Obligations.LaterEventsHaveNoInfluence := by
  intro s u evs
  induction evs generalizing s with
  | nil =>
    intro rest rest' hin h
    obtain rfl := Host.Outcome.next.inj h
    exact ⟨hin, rfl⟩
  | cons ev evs ih =>
    intro rest rest' hin h
    obtain ⟨v, hstep, hrun⟩ := exists_step_of_stepN_succ h
    obtain ⟨hinputs, hrun'⟩ := ih v rest rest' ((step_inputs hstep).trans (congrArg List.tail hin)) hrun
    exact ⟨hinputs, (stepN_succ (step_with_later_events hin hstep (evs ++ rest'))).trans hrun'⟩

/-- The states agree but for the clock port, TSTAMP and the clock readings of the pending events. -/
structure SameButClock (s s' : State) : Prop where
  state : s' = { s with now := s'.now, tstamp := s'.tstamp, inputs := s'.inputs }
  events : List.Forall₂ sameButReading s.inputs s'.inputs

theorem evCode_eq_three_iff {ev : Event} : evCode ev = 3 ↔ ev = .reserved := by
  cases ev <;> simp [evCode]

/-- A reading that the clock port has taken is not read from the event again. -/
theorem eventUpdate_of_sameButReading {ev ev' : Event} (h : sameButReading ev ev') (s : State) :
    eventUpdate s ev = eventUpdate s ev' := by
  obtain ⟨hcode, hbyte, hoperand⟩ := h
  cases ev <;> cases ev' <;> simp_all [evCode, evByte, evOperand, eventUpdate]

theorem step_sameButClock {s s' u : State} (h : SameButClock s s') (hstep : step s = .next u) :
    ∃ u', step s' = .next u' ∧ SameButClock u u' := by
  obtain ⟨hstate, hevents⟩ := h
  rcases step_next_cases hstep with ⟨hin, rfl⟩ | ⟨ev, rest, hin, hev, rfl⟩ <;> rw [hin] at hevents
  · have hin' : s'.inputs = [] := List.forall₂_nil_left_iff.mp hevents
    refine ⟨_, step_nil hin', congrArg lowerStrobe hstate, ?_⟩
    rw [lowerStrobe_inputs, lowerStrobe_inputs, hin, hin']
    exact .nil
  · obtain ⟨ev', rest', hsame, hrest, hin'⟩ := List.forall₂_cons_left_iff.mp hevents
    have hev' : ev' ≠ .reserved := by
      rintro rfl
      exact hev (evCode_eq_three_iff.mp hsame.1)
    have htaken : accept ev' rest' s' =
        { ({ accept ev rest s with inputs := rest' } : State) with
          now := evNow s.params ev' s'.now, tstamp := s'.tstamp } := congrArg (accept ev' rest') hstate
    refine ⟨_, step_eq_eventUpdate hin' hev', ?_, ?_⟩
    · rw [← eventUpdate_of_sameButReading hsame, htaken, eventUpdate_with_clock, eventUpdate_with_inputs]
    · rw [(eventUpdate_keepsBoundary _ _).inputs, (eventUpdate_keepsBoundary _ _).inputs]
      exact hrest

/-- Settles O52: every step keeps the agreement, so a run does. -/
theorem clockReachesTheTimestampOnly : Obligations.ClockReachesTheTimestampOnly := by
  suffices h : ∀ (n : Nat) (s s' u : State), SameButClock s s' → stepN n s = .next u →
      ∃ u', stepN n s' = .next u' ∧ SameButClock u u' by
    intro n s s' u hstate hevents hrun
    obtain ⟨u', hrun', hstate', hevents'⟩ := h n s s' u ⟨hstate, hevents⟩ hrun
    exact ⟨u', hrun', hstate', hevents'⟩
  intro n
  induction n with
  | zero =>
    intro s s' u h hrun
    obtain rfl := Host.Outcome.next.inj hrun
    exact ⟨s', rfl, h⟩
  | succ n ih =>
    intro s s' u h hrun
    obtain ⟨v, hstep, hrest⟩ := exists_step_of_stepN_succ hrun
    obtain ⟨v', hstep', hv⟩ := step_sameButClock h hstep
    obtain ⟨u', hrun', hu⟩ := ih v v' u hv hrest
    exact ⟨u', (stepN_succ hstep').trans hrun', hu⟩

/-! ### Ports -/

theorem runEvents_cons {ev : Event} {evs : List Event} {s t : State} (h : step { s with inputs := [ev] } = .next t)
    (u : Bool) : runEvents (ev :: evs) s u = runEvents evs t (u || t.upd) := by
  rw [runEvents, h]

theorem boundary_of_runEvents {p : PortsIn} {s t : State} {u : Bool}
    (h : runEvents (eventsOf p) { s with upd := false, inputs := [] } false = .next (t, u)) :
    boundary p s =
      .next ({ t with inputs := s.inputs }, { tx := (t.tx.drop s.tx.length).head?, count := t.count, tstamp := t.tstamp
                                              updValid := u }) := by
  rw [boundary, h]

/-- The control write at the end of a boundary, if there is one: CTRL, and the strobe low. -/
theorem runEvents_ctrlWrite (we : Bool) (w : Nat) (s : State) (u : Bool) (hin : s.inputs = []) :
    runEvents (if we then [.ctrlw w] else []) s u =
      .next ({ s with ctrl := if we then ctrlBits s.params w else s.ctrl, upd := if we then false else s.upd }, u) := by
  cases we with
  | false => rfl
  | true =>
    have hstep := step_ctrlw (s := { s with inputs := [.ctrlw w] }) (w := w) rfl
    rw [if_pos rfl, runEvents_cons hstep]
    simp only [runEvents, writeControl_upd, accept_upd, Bool.or_false, if_true]
    exact congrArg (fun q => Host.Outcome.next ({ s with ctrl := ctrlBits s.params w, upd := false, inputs := q }, u))
      hin.symm

theorem eventsOf_of_not_rst {p : PortsIn} (hrst : p.rst = false) :
    eventsOf p =
      (if p.rxValid then [.byte p.rxByte p.now] else []) ++ (if p.ctrlWe then [.ctrlw p.ctrlWdata] else []) := by
  rw [eventsOf, hrst]
  rfl

/-- Settles O54: the events of each combination, run one after the other. -/
theorem coincidentPortsAreOrdered : Obligations.CoincidentPortsAreOrdered := by
  refine fun p s => ⟨fun hrst => ?reset, fun hrst hrx => ?noByte, fun hrst hrx => ?byte⟩
  case reset =>
    have hrun : runEvents (eventsOf p) { s with upd := false, inputs := [] } false =
        .next (resetRegisters (accept .reset [] s), false) := by
      rw [eventsOf, if_pos hrst, runEvents_cons (step_reset rfl)]
      rfl
    have hnone : ((resetRegisters (accept .reset [] s)).tx.drop s.tx.length).head? = none := by simp
    rw [boundary_of_runEvents hrun, hnone]
    rfl
  case noByte =>
    have hrun := runEvents_ctrlWrite p.ctrlWe p.ctrlWdata { s with upd := false, inputs := [] } false rfl
    rw [boundary_of_runEvents (by rw [eventsOf_of_not_rst hrst, hrx]; exact hrun)]
    simp [ctrlBits]
  case byte =>
    obtain ⟨w, hstep, htx, -⟩ := exists_step_byte_eq_sendByte (s := { s with inputs := [.byte p.rxByte p.now] })
      (b := p.rxByte) (t := p.now) rfl
    generalize outgoingByte _ _ = out at hstep
    have hstep' := (step_of_upd (s := { s with inputs := [.byte p.rxByte p.now] }) rfl false).trans hstep
    have hsent : (sendByte out w).tx = s.tx ++ [out] := congrArg (· ++ [out]) htx
    have hwrite := runEvents_ctrlWrite p.ctrlWe p.ctrlWdata (sendByte out w) (false || (sendByte out w).upd)
      (step_inputs hstep)
    have hrun := (runEvents_cons (s := { s with upd := false, inputs := [] }) hstep' false).trans hwrite
    refine ⟨sendByte out w, out, hstep, hsent, ?_⟩
    rw [boundary_of_runEvents (by rw [eventsOf_of_not_rst hrst, hrx]; exact hrun)]
    simp only [step_params hstep, hsent, List.drop_left, List.head?_cons, ctrlBits, Bool.false_or]

end Sys2Proof.Machine
end

section
/-! The word that is placed (log entry 13): the record of a table word holds its key, and the state that the key is
placed in selects what the key stands for. -/

namespace Sys2Proof.Machine

/-! ### The key in a table word -/

/-- The first three bytes of a number hold its low twenty bits. -/
theorem keyOfBytes_ofNat (v : Nat) :
    keyOfBytes (BitVec.ofNat 8 v) (BitVec.ofNat 8 (v / 256)) (BitVec.ofNat 8 (v / 256 / 256)) = BitVec.ofNat 20 v := by
  have hmid (i : Nat) : (v / 256).testBit i = v.testBit (i + 8) := Nat.testBit_div_two_pow (n := 8) v i
  have htop (i : Nat) : (v / 256 / 256).testBit i = v.testBit (i + 16) := by
    rw [Nat.div_div_eq_div_mul]
    exact Nat.testBit_div_two_pow (n := 16) v i
  apply BitVec.eq_of_getLsbD_eq
  intro i hi
  have happ : (keyOfBytes (BitVec.ofNat 8 v) (BitVec.ofNat 8 (v / 256)) (BitVec.ofNat 8 (v / 256 / 256))).getLsbD i =
      ((BitVec.ofNat 8 (v / 256 / 256)).extractLsb' 0 4 ++ BitVec.ofNat 8 (v / 256) ++ BitVec.ofNat 8 v
        : BitVec (4 + 8 + 8)).getLsbD i := rfl
  rw [happ, BitVec.getLsbD_append, BitVec.getLsbD_append]
  simp only [BitVec.getLsbD_extractLsb', BitVec.getLsbD_ofNat, hmid, htop, hi, decide_true, Bool.true_and]
  by_cases h₁ : i < 8
  · simp [h₁]
  · by_cases h₂ : i - 8 < 8
    · simp [h₁, h₂, show i - 8 + 8 = i by omega]
    · simp [h₁, h₂, show i - 8 - 8 < 4 by omega, show i - 8 - 8 < 8 by omega, show i - 8 - 8 + 16 = i by omega]

/-- The spare bits of a record are the bits 23 to 20 of its word. -/
theorem spareBits_ofNat (v : Nat) : (BitVec.ofNat 8 (v / 256 / 256)).extractLsb' 4 4 = 0 ↔ v / 2 ^ 20 % 16 = 0 := by
  rw [← BitVec.toNat_inj, BitVec.extractLsb'_toNat, BitVec.toNat_ofNat, Nat.shiftRight_eq_div_pow]
  simp only [BitVec.ofNat_eq_ofNat, BitVec.toNat_ofNat]
  omega

/-- Only a control write's key looks at the value beside it. -/
theorem decodeKey_of_ev_ne_one {k : Key} (hev : keyEv k ≠ 1) (w w' : Nat) : decodeKey k w = decodeKey k w' := by
  rw [← mkKey_fields k]
  rcases eventKind_cases (keyEv k) with h | h | h | h
  · rw [h, decodeKey_byteKey, decodeKey_byteKey]
  · exact absurd h hev
  · rw [h, decodeKey_resetKey, decodeKey_resetKey]
  · rw [h, decodeKey_reservedKey, decodeKey_reservedKey]

/-- What a body decodes to, its key selects with the operand that stands in its bytes. -/
theorem decodeKey_of_decodeBody {p : Params} {k : Key} {bs rest : List Byte} {i : Instr}
    (hlen : bs.length = ctrlLength p) (h : decodeBody p k bs = .ok (i, rest)) :
    decodeKey k (natOfBytes bs) = .ok i := by
  unfold decodeBody at h
  split_ifs at h with hev hshort hwide
  · rw [← hlen, List.take_length] at h
    cases hk : decodeKey k (natOfBytes bs) with
    | ok j => rw [hk] at h; cases h; rfl
    | error e => rw [hk] at h; cases h
  · rw [decodeKey_of_ev_ne_one hev (natOfBytes bs) 0]
    cases hk : decodeKey k 0 with
    | ok j => rw [hk] at h; cases h; rfl
    | error e => rw [hk] at h; cases h

/-- A table word that decodes has its spare bits clear, and its key selects the operation. -/
theorem decodeKey_of_decodeTableWord {nbits w : Nat} {i : Instr} (h : decodeTableWord nbits w = some i) :
    w % 2 ^ nbits / 2 ^ 20 % 16 = 0 ∧
      decodeKey (BitVec.ofNat 20 (w % 2 ^ nbits)) (natOfBytes ((recordBytes nbits w).drop 3)) = .ok i := by
  unfold decodeTableWord at h
  split at h
  case h_2 => cases h
  case h_1 j rest hdecode =>
    obtain rfl := Option.some.inj h
    unfold recordBytes at hdecode ⊢
    generalize w % 2 ^ nbits = v at hdecode ⊢
    simp only [bytesOfNat, decode] at hdecode
    split_ifs at hdecode with hspare
    refine ⟨(spareBits_ofNat v).mp hspare, ?_⟩
    rw [keyOfBytes_ofNat] at hdecode
    exact decodeKey_of_decodeBody (by rw [List.length_drop, bytesOfNat_length]; rfl) hdecode

/-! ### The state that a key is placed in -/

theorem placeParser_boundary (k : Key) (s : State) :
    (placeParser k s).inputs = s.inputs ∧ (placeParser k s).now = s.now ∧ (placeParser k s).params = s.params := by
  unfold placeParser
  split_ifs <;> exact ⟨rfl, rfl, rfl⟩

/-- N is looked at in the data phase alone (30_encoding.md R52). -/
theorem decodeKey_byteKey_of_stf_ne_three {f : StCode} (hf : f ≠ 3) (n n' : Idx) (b : Byte) (w : Nat) :
    decodeKey (mkKey 0 f n b) w = decodeKey (mkKey 0 f n' b) w := by
  rw [decodeKey_byteKey, decodeKey_byteKey]
  have hcases : f = 0 ∨ f = 1 ∨ f = 2 ∨ f = 3 := eventKind_cases f
  rcases hcases with rfl | rfl | rfl | rfl
  · rfl
  · rfl
  · rfl
  · exact absurd rfl hf

/-- The parser is placed so that a byte's key there selects what the placed key does. -/
theorem selectInstr_placeParser {k : Key} (hev : keyEv k = 0) (s : State) (t : Nat) :
    selectInstr (placeParser k s) (.byte (keyB k) t) = decodeKey k 0 := by
  have hk : mkKey 0 (keyStf k) (keyN k) (keyB k) = k := by rw [← hev, mkKey_fields]
  by_cases hstf : keyStf k = 3
  · have hplace : placeParser k s = { s with st := .inData, idx := keyN k - 1, len := Config.length } := if_pos hstf
    rw [hplace]
    change decodeKey (mkKey 0 3 (keyN k - 1 + 1) (keyB k)) 0 = decodeKey k 0
    rw [BitVec.sub_add_cancel, ← hstf, hk]
  · have hplace : placeParser k s = { s with st := stOfCode (keyStf k) } := if_neg hstf
    rw [hplace]
    change decodeKey (mkKey 0 (stCode (stOfCode (keyStf k))) (s.idx + 1) (keyB k)) 0 = decodeKey k 0
    rw [stCode_stOfCode, decodeKey_byteKey_of_stf_ne_three hstf _ (keyN k), hk]

/-- A step on a state that an event was put before takes that event and leaves the queue and the clock port as they
were, if the event presents no new reading. -/
theorem step_offer {s : State} {ev : Event} {i : Instr} (hsel : selectInstr s ev = .ok i)
    (hnow : evNow s.params ev s.now = s.now) :
    step (offer ev s) = exec i { offer ev s with inputs := s.inputs, upd := false } := by
  have htaken : accept ev s.inputs (offer ev s) = { offer ev s with inputs := s.inputs, upd := false } :=
    congrArg (fun n => { offer ev s with inputs := s.inputs, upd := false, now := n }) hnow
  rw [← htaken]
  exact step_ok rfl hsel

/-- A placed key is what the next step runs. -/
theorem step_placeKey {k : Key} {w : Nat} {i : Instr} {s : State} (hnow : s.now < 2 ^ s.params.tsW)
    (h : decodeKey k w = .ok i) :
    step (placeKey k w s) = exec i { placeKey k w s with inputs := s.inputs, upd := false } ∧
      (placeKey k w s).inputs.tail = s.inputs ∧ (placeKey k w s).now = s.now := by
  unfold placeKey
  rcases eventKind_cases (keyEv k) with hev | hev | hev | hev <;> simp only [hev]
  · obtain ⟨hinputs, hnow', hparams⟩ := placeParser_boundary k s
    have hsel : selectInstr (placeParser k s) (.byte (keyB k) s.now) = .ok i := by
      rw [selectInstr_placeParser hev, ← h]
      exact decodeKey_of_ev_ne_one (by rw [hev]; decide) 0 w
    have hreading : evNow (placeParser k s).params (.byte (keyB k) s.now) (placeParser k s).now =
        (placeParser k s).now := by
      rw [hparams, hnow']
      exact Nat.mod_eq_of_lt hnow
    have hstep := step_offer hsel hreading
    rw [hinputs] at hstep
    exact ⟨hstep, hinputs, hnow'⟩
  · rw [← mkKey_fields k, hev, decodeKey_ctrlWriteKey] at h
    obtain rfl := Except.ok.inj h
    exact ⟨step_offer (select_ctrlw s w) rfl, rfl, rfl⟩
  · rw [← mkKey_fields k, hev, decodeKey_resetKey] at h
    obtain rfl := Except.ok.inj h
    exact ⟨step_offer (select_reset s) rfl, rfl, rfl⟩
  · rw [← mkKey_fields k, hev, decodeKey_reservedKey] at h
    cases h

/-- Settles O8: the word's spare bits are clear, so its key is placed, and a placed key is what the step runs. -/
theorem placedWordIsTheNextOperation : Obligations.PlacedWordIsTheNextOperation := by
  intro s nbits w i hnow h
  obtain ⟨hspare, hkey⟩ := decodeKey_of_decodeTableWord h
  unfold State.withFetchWord placeRecord
  rw [if_pos hspare]
  exact step_placeKey hnow hkey

end Sys2Proof.Machine
end

section
/-! Whole frames (42_data.md section 3): a run over a stimulus as one record update, for the bytes before a frame, for
its head, for any number of its data bytes, and for its last byte. -/

namespace Sys2Proof.Machine

/-! ### Runs over a stimulus -/

/-- The state in which a chunk's byte has its step: its control writes are done and its event is taken. -/
def atByte (c : Chunk) (rest : List Event) (s : State) : State :=
  { s with ctrl := lastWrite s.params s.ctrl c.ctrlWrites, inputs := rest, upd := false
           now := timeBits s.params c.time }

/-- The run over a stimulus from `s` ends in `u`, with `k` pulses of the strobe. -/
structure RunsTo (cs : List Chunk) (s u : State) (k : Nat) : Prop where
  run : stepN (stimulus cs).length s = .next u
  pulses : strobes (stimulus cs).length s = k

namespace RunsTo

theorem nil (s : State) : RunsTo [] s s 0 := ⟨rfl, rfl⟩

theorem append {as bs : List Chunk} {s v u : State} {j k : Nat} (h : RunsTo as s v j) (h' : RunsTo bs v u k) :
    RunsTo (as ++ bs) s u (j + k) where
  run := (stepN_stimulus_append h.run).trans h'.run
  pulses := by rw [stimulus_append, List.length_append, strobes_add h.run, h.pulses, h'.pulses]

/-- The update of the first chunk's byte, and then the run over the others. -/
theorem cons {c : Chunk} {cs : List Chunk} {s v u : State} {rest : List Event} {k : Nat}
    (hin : s.inputs = stimulus (c :: cs) ++ rest)
    (hv : eventUpdate (atByte c (stimulus cs ++ rest) s) (.byte c.byte c.time) = v) (h : RunsTo cs v u k) :
    RunsTo (c :: cs) s u ((if v.upd then 1 else 0) + k) := by
  have hstep : step { s with ctrl := lastWrite s.params s.ctrl c.ctrlWrites
                             inputs := .byte c.byte c.time :: (stimulus cs ++ rest) } =
      .next (eventUpdate (atByte c (stimulus cs ++ rest) s) (.byte c.byte c.time)) :=
    step_eq_eventUpdate (ev := .byte c.byte c.time) rfl (by simp)
  obtain ⟨hrun, hpulses⟩ := stimulus_run hin (hstep.trans (congrArg _ hv))
  exact ⟨hrun.trans h.run, hpulses.trans (congrArg _ h.pulses)⟩

/-- The same for a byte that commits nothing. -/
theorem cons_of_low {c : Chunk} {cs : List Chunk} {s v u : State} {rest : List Event} {k : Nat}
    (hin : s.inputs = stimulus (c :: cs) ++ rest)
    (hv : eventUpdate (atByte c (stimulus cs ++ rest) s) (.byte c.byte c.time) = v) (hlow : v.upd = false)
    (h : RunsTo cs v u k) : RunsTo (c :: cs) s u k := by
  have hcons := cons hin hv h
  rwa [hlow, if_neg Bool.false_ne_true, Nat.zero_add] at hcons

end RunsTo

/-! ### The updates of the frame grammar -/

section grammar

variable {s : State} {b : Byte}

theorem eventUpdate_hdrPass (hst : s.st = .awaitHeader) (hb : b ≠ Config.header) (t : Nat) :
    eventUpdate s (.byte b t) = sendByte b (abandonFrame s) := by
  rw [eventUpdate_byte_of_not_inData (by simp [hst]), syncWrites, hst]
  exact congrArg (sendByte b) (if_neg hb)

theorem eventUpdate_hdrMatch (hst : s.st = .awaitHeader) (hb : b = Config.header) (t : Nat) :
    eventUpdate s (.byte b t) = sendByte b (startFrame s) := by
  rw [eventUpdate_byte_of_not_inData (by simp [hst]), syncWrites, hst]
  exact congrArg (sendByte b) (if_pos hb)

theorem eventUpdate_lenMatch (hst : s.st = .awaitLength) (hb : b = Config.length) (t : Nat) :
    eventUpdate s (.byte b t) = sendByte b (recordLength b s) := by
  rw [eventUpdate_byte_of_not_inData (by simp [hst]), syncWrites, hst]
  exact congrArg (sendByte b) (if_pos hb)

theorem eventUpdate_cmdMatch (hst : s.st = .awaitCommand) (hb : b = Config.command) (t : Nat) :
    eventUpdate s (.byte b t) = sendByte b (recordCommand b s) := by
  rw [eventUpdate_byte_of_not_inData (by simp [hst]), syncWrites, hst]
  exact congrArg (sendByte b) (if_pos hb)

theorem eventUpdate_lenAbort (hst : s.st = .awaitLength) (hb : b ≠ Config.length) (t : Nat) :
    eventUpdate s (.byte b t) = sendByte b (abandonFrame s) := by
  rw [eventUpdate_byte_of_not_inData (by simp [hst]), syncWrites, hst]
  exact congrArg (sendByte b) (if_neg hb)

theorem eventUpdate_cmdAbort (hst : s.st = .awaitCommand) (hb : b ≠ Config.command) (t : Nat) :
    eventUpdate s (.byte b t) = sendByte b (abandonFrame s) := by
  rw [eventUpdate_byte_of_not_inData (by simp [hst]), syncWrites, hst]
  exact congrArg (sendByte b) (if_neg hb)

end grammar

/-! ### Bytes that start no frame -/

/-- What a run over bytes without HEADER leaves: they are relayed, and CTRL takes the control writes among them. The
strobe and the clock port are those of the last event. -/
def afterRelayed (cs : List Chunk) (rest : List Event) (x : Bool) (n : Nat) (s : State) : State :=
  { s with csum := s.csum + byteSum (cs.map Chunk.byte), ctrl := ctrlAfter s.params s.ctrl cs
           tx := s.tx ++ cs.map Chunk.byte, inputs := rest, upd := x, now := n }

theorem exists_runsTo_afterRelayed {cs : List Chunk} {s : State} {rest : List Event} (hst : s.st = .awaitHeader)
    (hcs : ∀ c ∈ cs, c.byte ≠ Config.header) (hin : s.inputs = stimulus cs ++ rest) :
    ∃ (x : Bool) (n : Nat), RunsTo cs s (afterRelayed cs rest x n s) 0 := by
  induction cs generalizing s with
  | nil =>
    have hself : afterRelayed [] rest s.upd s.now s = s := by
      apply state_ext <;> simp [afterRelayed, ctrlAfter_nil, hin, stimulus]
    exact ⟨s.upd, s.now, hself.symm ▸ RunsTo.nil s⟩
  | cons c cs ih =>
    obtain ⟨hc, hcs'⟩ := List.forall_mem_cons.mp hcs
    obtain ⟨x, n, hrun⟩ := ih (s := sendByte c.byte (abandonFrame (atByte c (stimulus cs ++ rest) s))) rfl hcs' rfl
    have hsame : afterRelayed cs rest x n (sendByte c.byte (abandonFrame (atByte c (stimulus cs ++ rest) s))) =
        afterRelayed (c :: cs) rest x n s := by
      apply state_ext <;> simp [afterRelayed, atByte, hst, ctrlAfter_cons, BitVec.add_assoc]
    exact ⟨x, n, hsame ▸ RunsTo.cons_of_low hin (eventUpdate_hdrPass (s := atByte c _ s) hst hc c.time) rfl hrun⟩

/-- Settles O17: the run's record, field by field. -/
theorem bytesWithoutHeaderPassThrough : Obligations.BytesWithoutHeaderPassThrough := by
  intro s cs rest hst hcs hin
  obtain ⟨x, n, hrun, hpulses⟩ := exists_runsTo_afterRelayed hst hcs hin
  exact ⟨_, hrun, hpulses, hst, rfl, rfl, rfl, rfl, rfl, rfl, rfl, rfl, rfl, rfl⟩

/-- A chunk without control writes. -/
def plainChunk (b : Byte) (t : Nat) : Chunk := ⟨[], b, t⟩

/-- LENGTH and COMMAND, received in AwaitHeader, start no frame. -/
theorem exists_runsTo_missed {s : State} {t t' : Nat} {rest : List Event} (hst : s.st = .awaitHeader)
    (hin : s.inputs = stimulus [plainChunk 0x11 t, plainChunk 0x0B t'] ++ rest) :
    ∃ (x : Bool) (n : Nat), RunsTo [plainChunk 0x11 t, plainChunk 0x0B t'] s
      (afterRelayed [plainChunk 0x11 t, plainChunk 0x0B t'] rest x n s) 0 :=
  exists_runsTo_afterRelayed hst (by simp [plainChunk, Config.header]) hin

/-- Settles O18: the second HEADER is the byte that aborts, so the two bytes after it come in AwaitHeader. -/
theorem abortingHeaderIsMissed : Obligations.AbortingHeaderIsMissed := by
  refine ⟨fun s t₀ t₁ t₂ t₃ rest hst hin => ?inLength, fun s t₀ t₁ t₂ t₃ t₄ rest hst hin => ?inCommand⟩
  case inLength =>
    have hno : (0x16 : Byte) ≠ Config.length := by decide
    obtain ⟨v, habort, hvst, hvin, hvtx, hvlen, hvcmd, hvcount, hvtstamp⟩ :
        ∃ v, RunsTo [plainChunk 0x16 t₀, plainChunk 0x16 t₁] s v 0 ∧ v.st = .awaitHeader ∧
          v.inputs = stimulus [plainChunk 0x11 t₂, plainChunk 0x0B t₃] ++ rest ∧ v.tx = s.tx ++ [0x16] ++ [0x16] ∧
          v.len = s.len ∧ v.cmd = s.cmd ∧ v.count = s.count ∧ v.tstamp = s.tstamp :=
      ⟨_, RunsTo.cons_of_low hin (eventUpdate_hdrMatch (s := atByte (plainChunk 0x16 t₀) _ s) hst rfl t₀) rfl
        (RunsTo.cons_of_low rfl (eventUpdate_lenAbort (s := atByte (plainChunk 0x16 t₁) _ _) rfl hno t₁) rfl
          (RunsTo.nil _)),
        rfl, rfl, rfl, rfl, rfl, rfl, rfl⟩
    obtain ⟨x, n, hmissed⟩ := exists_runsTo_missed hvst hvin
    refine ⟨_, (habort.append hmissed).run, hvst, ?_, hvlen, hvcmd, hvcount, hvtstamp⟩
    simp [afterRelayed, plainChunk, hvtx]
  case inCommand =>
    have hno : (0x16 : Byte) ≠ Config.command := by decide
    obtain ⟨v, habort, hvst, hvin, hvtx, hvcmd, hvcount, hvtstamp⟩ :
        ∃ v, RunsTo [plainChunk 0x16 t₀, plainChunk 0x11 t₁, plainChunk 0x16 t₂] s v 0 ∧ v.st = .awaitHeader ∧
          v.inputs = stimulus [plainChunk 0x11 t₃, plainChunk 0x0B t₄] ++ rest ∧
          v.tx = s.tx ++ [0x16] ++ [0x11] ++ [0x16] ∧ v.cmd = s.cmd ∧ v.count = s.count ∧ v.tstamp = s.tstamp :=
      ⟨_, RunsTo.cons_of_low hin (eventUpdate_hdrMatch (s := atByte (plainChunk 0x16 t₀) _ s) hst rfl t₀) rfl
        (RunsTo.cons_of_low rfl (eventUpdate_lenMatch (s := atByte (plainChunk 0x11 t₁) _ _) rfl rfl t₁) rfl
          (RunsTo.cons_of_low rfl (eventUpdate_cmdAbort (s := atByte (plainChunk 0x16 t₂) _ _) rfl hno t₂) rfl
            (RunsTo.nil _))), rfl, rfl, rfl, rfl, rfl, rfl⟩
    obtain ⟨x, n, hmissed⟩ := exists_runsTo_missed hvst hvin
    refine ⟨_, (habort.append hmissed).run, hvst, ?_, hvcmd, hvcount, hvtstamp⟩
    simp [afterRelayed, plainChunk, hvtx]

/-! ### The data bytes of a frame -/

/-- The bytes sent for data bytes that follow the first `k` of a frame, from CTRL = `c` (42_data.md R79 to R81). -/
def dataOuts (p : Params) (c k : Nat) : List Chunk → List Byte
  | [] => []
  | x :: cs => dataOut (BitVec.ofNat 8 (k + 1)) (lastWrite p c x.ctrlWrites) x.byte ::
      dataOuts p (lastWrite p c x.ctrlWrites) (k + 1) cs

/-- What data bytes that follow the first `k` of a frame add to VAL (42_data.md R80, R81). -/
def dataTerms (k : Nat) : List Byte → Val
  | [] => 0
  | b :: bs => dataTerm (BitVec.ofNat 8 (k + 1)) b + dataTerms (k + 1) bs

/-- What a run over data bytes that follow the first `k` of a frame leaves. -/
def afterData (k : Nat) (cs : List Chunk) (rest : List Event) (x : Bool) (n : Nat) (s : State) : State :=
  { s with idx := BitVec.ofNat 8 (k + cs.length), val := s.val + dataTerms k (cs.map Chunk.byte)
           csum := s.csum + byteSum (dataOuts s.params s.ctrl k cs), ctrl := ctrlAfter s.params s.ctrl cs
           tx := s.tx ++ dataOuts s.params s.ctrl k cs, inputs := rest, upd := x, now := n }

theorem ofNat_eq_iff_of_lt {m n : Nat} (hm : m < 256) (hn : n < 256) :
    BitVec.ofNat 8 m = BitVec.ofNat 8 n ↔ m = n := by
  rw [← BitVec.toNat_inj, BitVec.toNat_ofNat, BitVec.toNat_ofNat, Nat.mod_eq_of_lt hm, Nat.mod_eq_of_lt hn]

/-- The data update at data position `k + 1` of a frame, before the trailer's. -/
theorem dataUpdate_at_position {k : Nat} {s : State} (hlen : s.len = Config.length) (hidx : s.idx = BitVec.ofNat 8 k)
    (hk : k < 16) (b : Byte) :
    dataUpdate b s =
      { s with idx := BitVec.ofNat 8 (k + 1), val := s.val + dataTerm (BitVec.ofNat 8 (k + 1)) b
               csum := s.csum + dataOut (BitVec.ofNat 8 (k + 1)) s.ctrl b
               tx := s.tx ++ [dataOut (BitVec.ofNat 8 (k + 1)) s.ctrl b] } := by
  have hnext : s.idx + 1 = BitVec.ofNat 8 (k + 1) := by
    rw [hidx, BitVec.ofNat_add]
    rfl
  have hend : s.idx + 1 ≠ s.len := by
    rw [hnext, hlen, Ne, show Config.length = BitVec.ofNat 8 17 from rfl, ofNat_eq_iff_of_lt (by omega) (by decide)]
    omega
  rw [dataUpdate_of_not_end hend, hnext]

/-- A run over data bytes up to position 16 at most stays in the data and commits nothing. -/
theorem exists_runsTo_afterData {cs : List Chunk} {k : Nat} {s : State} {rest : List Event} (hst : s.st = .inData)
    (hlen : s.len = Config.length) (hidx : s.idx = BitVec.ofNat 8 k) (hk : k + cs.length ≤ 16)
    (hin : s.inputs = stimulus cs ++ rest) :
    ∃ (x : Bool) (n : Nat), RunsTo cs s (afterData k cs rest x n s) 0 := by
  induction cs generalizing s k with
  | nil =>
    have hself : afterData k [] rest s.upd s.now s = s := by
      apply state_ext <;> simp [afterData, dataOuts, dataTerms, ctrlAfter_nil, hin, hidx, stimulus]
    exact ⟨s.upd, s.now, hself.symm ▸ RunsTo.nil s⟩
  | cons c cs ih =>
    rw [List.length_cons] at hk
    have hv := (eventUpdate_byte_of_inData (s := atByte c (stimulus cs ++ rest) s) hst c.byte c.time).trans
      (dataUpdate_at_position (s := atByte c (stimulus cs ++ rest) s) hlen hidx (by omega) c.byte)
    obtain ⟨x, n, hrun⟩ := ih (k := k + 1) (s := { atByte c (stimulus cs ++ rest) s with
      idx := BitVec.ofNat 8 (k + 1), val := _, csum := _, tx := _ }) hst hlen rfl (by omega) rfl
    refine ⟨x, n, ?_⟩
    convert RunsTo.cons_of_low hin hv rfl hrun using 1
    apply state_ext <;>
      simp [afterData, atByte, dataOuts, dataTerms, ctrlAfter_cons, BitVec.add_assoc, Nat.add_assoc, Nat.add_comm 1]

/-! ### The head of a frame and its last byte -/

/-- What a run over the chunks `cs` of a frame's head leaves. -/
def afterHead (cs : List Chunk) (rest : List Event) (n : Nat) (s : State) : State :=
  { s with st := .inData, idx := 0, val := 0, csum := byteSum frameHead, len := Config.length, cmd := Config.command
           ctrl := ctrlAfter s.params s.ctrl cs, tx := s.tx ++ frameHead, inputs := rest, upd := false, now := n }

theorem runsTo_afterHead {s : State} {c₁ c₂ c₃ : Chunk} {rest : List Event} (hst : s.st = .awaitHeader)
    (h₁ : c₁.byte = Config.header) (h₂ : c₂.byte = Config.length) (h₃ : c₃.byte = Config.command)
    (hin : s.inputs = stimulus [c₁, c₂, c₃] ++ rest) :
    RunsTo [c₁, c₂, c₃] s (afterHead [c₁, c₂, c₃] rest (timeBits s.params c₃.time) s) 0 := by
  convert RunsTo.cons_of_low hin (eventUpdate_hdrMatch (s := atByte c₁ _ s) hst h₁ c₁.time) rfl
    (RunsTo.cons_of_low rfl (eventUpdate_lenMatch (s := atByte c₂ _ _) rfl h₂ c₂.time) rfl
      (RunsTo.cons_of_low (rest := rest) rfl (eventUpdate_cmdMatch (s := atByte c₃ _ _) rfl h₃ c₃.time) rfl
        (RunsTo.nil _))) using 1
  apply state_ext <;>
    simp [afterHead, atByte, frameHead, h₁, h₂, h₃, ctrlAfter_cons, ctrlAfter_nil, stimulus, BitVec.add_assoc]

/-- What the run over the chunk of the trailer's place leaves: the reading is committed (42_data.md R82). -/
def afterTrailer (c : Chunk) (rest : List Event) (s : State) : State :=
  { s with idx := Config.length, st := .awaitHeader, csum := 0, ctrl := lastWrite s.params s.ctrl c.ctrlWrites
           count := s.val
           tstamp := timeBits s.params c.time, tx := s.tx ++ [trailerOf s.csum], inputs := rest, upd := true
           now := timeBits s.params c.time }

/-- The byte at position 17 commits, whatever it is. -/
theorem runsTo_afterTrailer {s : State} {c : Chunk} {rest : List Event} (hst : s.st = .inData)
    (hlen : s.len = Config.length) (hcmd : s.cmd = Config.command) (hidx : s.idx = BitVec.ofNat 8 16)
    (hin : s.inputs = stimulus [c] ++ rest) : RunsTo [c] s (afterTrailer c rest s) 1 := by
  have hv := (eventUpdate_byte_of_inData (s := atByte c rest s) hst c.byte c.time).trans
    (dataUpdate_of_frame_end (s := atByte c rest s) hlen hcmd (congrArg (· + 1) hidx) c.byte)
  exact RunsTo.cons hin hv (RunsTo.nil _)

end Sys2Proof.Machine
end

section
/-! The frame as the statements give it: the bytes sent by position and CTRL, the reading, and the runs to a point in
the data, to the end of a frame, and from any point in the data to the end. -/

namespace Sys2Proof.Machine

/-! ### The bytes sent for the data bytes of a frame -/

theorem dataOuts_length (p : Params) (c k : Nat) (cs : List Chunk) : (dataOuts p c k cs).length = cs.length := by
  induction cs generalizing c k with
  | nil => rfl
  | cons x cs ih => exact congrArg (· + 1) (ih _ _)

/-- The byte sent for one of them is that of its position, with CTRL as it is then. -/
theorem getElem_dataOuts (p : Params) {c k j : Nat} {cs : List Chunk} (hj : j < cs.length) :
    (dataOuts p c k cs)[j]'(by rwa [dataOuts_length]) =
      dataOut (BitVec.ofNat 8 (k + j + 1)) (ctrlAfter p c (cs.take (j + 1))) cs[j].byte := by
  induction cs generalizing c k j with
  | nil => cases hj
  | cons x cs ih =>
    cases j with
    | zero => simp [dataOuts, ctrlAfter_cons, ctrlAfter_nil]
    | succ j =>
      have hj' : j < cs.length := Nat.lt_of_succ_lt_succ hj
      simp [dataOuts, ctrlAfter_cons, ih hj', Nat.add_assoc, Nat.add_comm 1]

/-- Data byte `j` of a frame, counted from 0, as it is sent when CTRL is `c3` at position 3 and `c4` at position 4. -/
def frameOut (c3 c4 j : Nat) (b : Byte) : Byte :=
  if j = 2 ∧ c3 ≠ 0 then BitVec.ofNat 8 (c3 / 256) else if j = 3 ∧ c4 ≠ 0 then BitVec.ofNat 8 c4 else b

/-- It depends on CTRL at its own step alone. -/
theorem dataOut_eq_frameOut {j c c3 c4 : Nat} (hj : j < 16) (h3 : j = 2 → c = c3) (h4 : j = 3 → c = c4) (b : Byte) :
    dataOut (BitVec.ofNat 8 (j + 1)) c b = frameOut c3 c4 j b := by
  unfold frameOut
  by_cases hj3 : j = 2
  · subst hj3
    rw [← h3 rfl, if_neg (c := 2 = 3 ∧ c4 ≠ 0) (by omega)]
    simp only [true_and]
    exact outAtHi_eq_ite c b
  · by_cases hj4 : j = 3
    · subst hj4
      rw [← h4 rfl, if_neg (by omega)]
      simp only [true_and]
      exact outAtLo_eq_ite c b
    · rw [if_neg (by omega), if_neg (by omega)]
      refine dataOut_of_ne ?_ ?_ c b
      · exact fun h => hj3 (Nat.succ.inj ((ofNat_eq_iff_of_lt (by omega) (by decide : 3 < 256)).mp h))
      · exact fun h => hj4 (Nat.succ.inj ((ofNat_eq_iff_of_lt (by omega) (by decide : 4 < 256)).mp h))

theorem dataOuts_eq_mapIdx (p : Params) (c : Nat) {cs : List Chunk} (hcs : cs.length ≤ 16) :
    dataOuts p c 0 cs =
      (cs.map Chunk.byte).mapIdx (frameOut (ctrlAfter p c (cs.take 3)) (ctrlAfter p c (cs.take 4))) := by
  apply List.ext_getElem
  · simp [dataOuts_length]
  · intro j hj hj'
    rw [dataOuts_length] at hj
    rw [getElem_dataOuts p hj, List.getElem_mapIdx, List.getElem_map, Nat.zero_add]
    exact dataOut_eq_frameOut (by omega) (fun h => by rw [h]) (fun h => by rw [h]) _

/-- Past position 4 the bytes are sent as they came. -/
theorem mapIdx_frameOut_from_four (c3 c4 : Nat) (ds : List Byte) :
    ds.mapIdx (fun j => frameOut c3 c4 (j + 1 + 1 + 1 + 1)) = ds := by
  apply List.ext_getElem
  · simp
  · intro j _ _
    simp [frameOut]

/-! ### The reading -/

/-- Past position 4 nothing is added to VAL. -/
theorem dataTerms_eq_zero {k : Nat} {bs : List Byte} (hk : 4 ≤ k) (hbs : k + bs.length < 256) : dataTerms k bs = 0 := by
  induction bs generalizing k with
  | nil => rfl
  | cons b bs ih =>
    rw [List.length_cons] at hbs
    have hpos {m : Nat} (hm : m ≤ 4) : BitVec.ofNat 8 (k + 1) ≠ BitVec.ofNat 8 m := by
      rw [Ne, ofNat_eq_iff_of_lt (by omega) (by omega)]
      omega
    rw [dataTerms, dataTerm_of_ne (hpos (m := 3) (by decide)) (hpos (m := 4) (by decide)), ih (by omega) (by omega)]
    rfl

/-- VAL is the bytes of positions 3 and 4, big-endian, a byte that has not come counting as zero (30_encoding.md
R48). -/
theorem dataTerms_eq_append {d : List Byte} (hd : d.length ≤ 16) : dataTerms 0 d = d.getD 2 0 ++ d.getD 3 0 := by
  have hone (b : Byte) : dataTerm (BitVec.ofNat 8 1) b = 0 := rfl
  have htwo (b : Byte) : dataTerm (BitVec.ofNat 8 2) b = 0 := rfl
  have hhi (b : Byte) : dataTerm (BitVec.ofNat 8 3) b = hiTerm b := rfl
  have hlo (b : Byte) : dataTerm (BitVec.ofNat 8 4) b = loTerm b := rfl
  have hhi0 : hiTerm 0#8 = 0#16 := by decide
  have hlo0 : loTerm 0#8 = 0#16 := by decide
  rw [← hiTerm_add_loTerm]
  match d with
  | [] => simp [dataTerms, hhi0, hlo0]
  | [b₁] => simp [dataTerms, hone, hhi0, hlo0]
  | [b₁, b₂] => simp [dataTerms, hone, htwo, hhi0, hlo0]
  | [b₁, b₂, b₃] => simp [dataTerms, hone, htwo, hhi, hlo0]
  | b₁ :: b₂ :: b₃ :: b₄ :: bs =>
    have hrest : dataTerms 4 bs = 0 := dataTerms_eq_zero (le_refl 4) (by simp only [List.length_cons] at hd; omega)
    simp [dataTerms, hone, htwo, hhi, hlo, hrest]

/-! ### The runs -/

/-- A stimulus that begins with a frame's head, as the head's three chunks and the others. -/
theorem exists_head_chunks {cs : List Chunk} {d : List Byte} (h : cs.map Chunk.byte = frameHead ++ d) :
    ∃ (c₁ c₂ c₃ : Chunk) (ds : List Chunk), cs = [c₁, c₂, c₃] ++ ds ∧ c₁.byte = Config.header ∧
      c₂.byte = Config.length ∧ c₃.byte = Config.command ∧ ds.map Chunk.byte = d := by
  obtain ⟨head, ds, rfl, hhead, hds⟩ := List.map_eq_append_iff.mp h
  obtain ⟨c₁, tl₁, rfl, h₁, htl₁⟩ := List.map_eq_cons_iff.mp hhead
  obtain ⟨c₂, tl₂, rfl, h₂, htl₂⟩ := List.map_eq_cons_iff.mp htl₁
  obtain ⟨c₃, rfl, h₃⟩ := List.map_eq_singleton_iff.mp htl₂
  exact ⟨c₁, c₂, c₃, ds, rfl, h₁, h₂, h₃, hds⟩

/-- Where a frame stands after its head and the data bytes `d`, sent as `outs`. -/
structure FrameAt (d outs : List Byte) (c : Nat) (rest : List Event) (s u : State) : Prop where
  params : u.params = s.params
  st : u.st = .inData
  idx : u.idx = BitVec.ofNat 8 d.length
  val : u.val = d.getD 2 0 ++ d.getD 3 0
  csum : u.csum = 0x32 + byteSum outs
  len : u.len = Config.length
  cmd : u.cmd = Config.command
  ctrl : u.ctrl = c
  count : u.count = s.count
  tstamp : u.tstamp = s.tstamp
  tx : u.tx = s.tx ++ frameHead ++ outs
  inputs : u.inputs = rest

/-- A run over a frame's head and data bytes, none of which commits, whatever control writes fall among them. -/
theorem exists_runsTo_frameAt {s : State} {cs : List Chunk} {rest : List Event} {d : List Byte}
    (hst : s.st = .awaitHeader) (hd : d.length ≤ 16) (hcs : cs.map Chunk.byte = frameHead ++ d)
    (hin : s.inputs = stimulus cs ++ rest) :
    ∃ u, RunsTo cs s u 0 ∧
      FrameAt d (d.mapIdx (frameOut (ctrlAfter s.params s.ctrl (cs.take 6)) (ctrlAfter s.params s.ctrl (cs.take 7))))
        (ctrlAfter s.params s.ctrl cs) rest s u := by
  obtain ⟨c₁, c₂, c₃, ds, rfl, h₁, h₂, h₃, rfl⟩ := exists_head_chunks hcs
  rw [List.length_map] at hd
  rw [stimulus_append, List.append_assoc] at hin
  have hhead := runsTo_afterHead hst h₁ h₂ h₃ hin
  obtain ⟨x, n, hdata⟩ := exists_runsTo_afterData (k := 0) (s := afterHead [c₁, c₂, c₃] _ _ s) rfl rfl rfl
    (by rwa [Nat.zero_add]) rfl
  have hctrl (k : Nat) : ctrlAfter s.params s.ctrl (([c₁, c₂, c₃] ++ ds).take (3 + k)) =
      ctrlAfter s.params (ctrlAfter s.params s.ctrl [c₁, c₂, c₃]) (ds.take k) := by
    rw [← ctrlAfter_append]
    exact congrArg _ (List.take_length_add_append (l₁ := [c₁, c₂, c₃]) k)
  have houts := dataOuts_eq_mapIdx s.params (ctrlAfter s.params s.ctrl [c₁, c₂, c₃]) hd
  rw [← hctrl 3, ← hctrl 4] at houts
  refine ⟨_, hhead.append hdata, rfl, rfl, ?_, ?_, congrArg (0x32 + byteSum ·) houts, rfl, rfl,
    (ctrlAfter_append _ _ _ _).symm, rfl, rfl, congrArg (s.tx ++ frameHead ++ ·) houts, rfl⟩
  · simp [afterData]
  · simp [afterData, afterHead, dataTerms_eq_append (d := ds.map Chunk.byte) (by rwa [List.length_map])]

/-- Settles O48: `FrameAt`, field by field. -/
theorem frameInProgress : Obligations.FrameInProgress := by
  intro s cs rest d hst hd hcs hin
  obtain ⟨u, hrun, hu⟩ := exists_runsTo_frameAt hst hd hcs hin
  refine ⟨u, hrun.run, hrun.pulses, hu.st, ?_, hu.len, hu.cmd, hu.val, hu.csum, hu.tx, hu.count, hu.tstamp, hu.ctrl,
    hu.inputs⟩
  rw [hu.idx]
  exact Nat.mod_eq_of_lt (show d.length < 256 by omega)

/-- A frame's first four data bytes and the others, as they are sent. -/
theorem mapIdx_frameOut (c3 c4 : Nat) (d1 d2 d3 d4 : Byte) (ds : List Byte) :
    (d1 :: d2 :: d3 :: d4 :: ds).mapIdx (frameOut c3 c4) =
      [d1, d2, if c3 = 0 then d3 else BitVec.ofNat 8 (c3 / 256), if c4 = 0 then d4 else BitVec.ofNat 8 c4] ++ ds := by
  simp only [List.mapIdx_cons, mapIdx_frameOut_from_four]
  simp [frameOut]

/-- A stimulus without its last chunk. -/
theorem exists_last_chunk {cs : List Chunk} {bs : List Byte} {x : Byte} (h : cs.map Chunk.byte = bs ++ [x]) :
    ∃ (body : List Chunk) (c : Chunk), cs = body ++ [c] ∧ body.map Chunk.byte = bs := by
  obtain ⟨body, last, rfl, hbody, hlast⟩ := List.map_eq_append_iff.mp h
  obtain ⟨c, rfl, -⟩ := List.map_eq_singleton_iff.mp hlast
  exact ⟨body, c, rfl, hbody⟩

/-- Settles O47: the run to the end of the data, then the trailer's; the rest is the trailer's arithmetic. -/
theorem wholeFrameEffect : Obligations.WholeFrameEffect := by
  intro s cs rest d1 d2 d3 d4 x ds tEnd hst hds hcs htime hin
  obtain ⟨body, cx, rfl, hbody⟩ := exists_last_chunk hcs
  obtain rfl : cx.time = tEnd := by simpa using htime
  have hlen : body.length = 19 := by
    have := congrArg List.length hbody
    simpa [hds] using this
  have htake (k : Nat) (hk : k ≤ 19) : (body ++ [cx]).take k = body.take k :=
    List.take_append_of_le_length (by omega)
  rw [stimulus_append, List.append_assoc] at hin
  obtain ⟨u, hrun, hu⟩ := exists_runsTo_frameAt (d := d1 :: d2 :: d3 :: d4 :: ds) hst (by simp [hds]) hbody hin
  have hend := runsTo_afterTrailer hu.st hu.len hu.cmd (by rw [hu.idx]; simp [hds]) hu.inputs
  have hall := hrun.append hend
  have hcsum := hu.csum
  have htx := hu.tx
  rw [mapIdx_frameOut] at hcsum htx
  intro c3 c4 o3 o4 trailer
  have hc3 : c3 = ctrlAfter s.params s.ctrl (body.take 6) := congrArg (ctrlAfter s.params s.ctrl) (htake 6 (by decide))
  have hc4 : c4 = ctrlAfter s.params s.ctrl (body.take 7) := congrArg (ctrlAfter s.params s.ctrl) (htake 7 (by decide))
  rw [← hc3, ← hc4] at hcsum htx
  have htrailer : trailerOf u.csum = trailer := by
    rw [trailerOf_eq_neg, hcsum, ← BitVec.zero_sub, byteSum_append]
    simp only [byteSum_cons, byteSum_nil, BitVec.ofNat_eq_ofNat, BitVec.add_zero, BitVec.add_assoc, trailer]
    rfl
  have hsent : u.tx ++ [trailerOf u.csum] = s.tx ++ [0x16, 0x11, 0x0B, d1, d2, o3, o4] ++ ds ++ [trailer] := by
    rw [htx, htrailer, List.append_assoc s.tx frameHead, ← List.append_assoc frameHead, ← List.append_assoc s.tx]
    rfl
  have hctrl : lastWrite u.params u.ctrl cx.ctrlWrites = ctrlAfter s.params s.ctrl (body ++ [cx]) := by
    rw [hu.params, hu.ctrl, ctrlAfter_append, ctrlAfter_cons, ctrlAfter_nil]
  have htime' : timeBits u.params cx.time = cx.time % 2 ^ s.params.tsW := by
    rw [hu.params]
    rfl
  exact ⟨hall.run.trans (congrArg Host.Outcome.next (state_ext hu.params rfl rfl hu.val rfl hu.len hu.cmd hctrl hu.val
    htime' hsent rfl rfl htime')), hall.pulses⟩

/-- The events of chunks without control writes are their bytes. -/
theorem stimulus_plainChunks (bs : List Byte) (t : Nat) :
    stimulus (bs.map (plainChunk · t)) = bs.map (fun b => Event.byte b t) := by
  induction bs with
  | nil => rfl
  | cons b bs ih => rw [List.map_cons, stimulus_cons, ih]; rfl

/-- They leave CTRL alone. -/
theorem ctrlAfter_plainChunks (p : Params) (c : Nat) (bs : List Byte) (t : Nat) :
    ctrlAfter p c (bs.map (plainChunk · t)) = c := by
  induction bs with
  | nil => rfl
  | cons b bs ih => rw [List.map_cons, ctrlAfter_cons]; exact ih

/-- FRAME's last byte makes the sum zero (30_encoding.md R57). -/
theorem byteSum_frame (d : List Byte) : byteSum (frame d) = 0 := by
  rw [frame, frameX, byteSum_append, byteSum_cons, byteSum_nil]
  simp

/-- Settles O50: `wholeFrameEffect` for chunks without control writes; the trailer is then FRAME's own last byte. -/
theorem validFrameIsRelayedUnchanged : Obligations.ValidFrameIsRelayedUnchanged := by
  intro s d t rest hst hctrl hd hin
  refine ⟨byteSum_frame d, ?_⟩
  match d, hd with
  | d1 :: d2 :: d3 :: d4 :: ds, hd =>
    have hds : ds.length = 12 := by simpa using hd
    rw [← stimulus_plainChunks] at hin
    have hbytes : ((frame (d1 :: d2 :: d3 :: d4 :: ds)).map (plainChunk · t)).map Chunk.byte =
        frame (d1 :: d2 :: d3 :: d4 :: ds) := by
      simp [plainChunk, Function.comp_def]
    have htime : ((frame (d1 :: d2 :: d3 :: d4 :: ds)).map (plainChunk · t)).getLast?.map Chunk.time = some t := by
      rw [frame, frameX, List.map_append]
      exact congrArg (Option.map Chunk.time) List.getLast?_concat
    have hlen : (frame (d1 :: d2 :: d3 :: d4 :: ds)).length = 20 := by simp [frame, frameX, frameHead, hds]
    have hlast : 0 - (0x32 + d1 + d2 + d3 + d4 + byteSum ds) =
        0 - byteSum (frameHead ++ d1 :: d2 :: d3 :: d4 :: ds) := by
      rw [byteSum_append]
      simp only [byteSum_cons, BitVec.add_assoc]
      rfl
    obtain ⟨hrun, -⟩ := wholeFrameEffect s _ rest d1 d2 d3 d4 _ ds t hst hds hbytes htime hin
    simp only [← List.map_take, ctrlAfter_plainChunks, hctrl, if_true, stimulus_plainChunks, List.length_map,
      hlen] at hrun
    refine ⟨_, hrun, ?_, rfl, rfl, rfl⟩
    rw [frame, frameX, ← hlast]
    simp only [List.append_assoc]
    rfl

/-- Settles O51: short of position 17 the run stays in the data; the byte that makes 17 is the trailer's. -/
theorem frameEndsByCountingOnly : Obligations.FrameEndsByCountingOnly := by
  intro s cs rest h hst hin
  have hlen := h.len_eq hst
  have hidx : s.idx = BitVec.ofNat 8 s.idx.toNat := by simp
  have h16 : s.idx.toNat ≤ 16 := (h.inData hst).2.2
  refine ⟨fun hshort => ?_, fun hexact => ?_⟩
  · obtain ⟨x, n, hrun⟩ := exists_runsTo_afterData hst hlen hidx (by omega) hin
    exact ⟨_, hrun.run, hst, Nat.mod_eq_of_lt (show s.idx.toNat + cs.length < 256 by omega), hrun.pulses, rfl, rfl⟩
  · obtain rfl | ⟨body, c, rfl⟩ := List.eq_nil_or_concat' cs
    · simp only [List.length_nil] at hexact
      omega
    · rw [List.length_append, List.length_singleton] at hexact
      rw [stimulus_append, List.append_assoc] at hin
      obtain ⟨x, n, hrun⟩ := exists_runsTo_afterData hst hlen hidx (by omega) hin
      have hend := runsTo_afterTrailer (c := c) (rest := rest) (s := afterData s.idx.toNat body _ x n s) hst hlen
        (h.cmd_eq hst) (congrArg (BitVec.ofNat 8) (show s.idx.toNat + body.length = 16 by omega)) rfl
      have hall := hrun.append hend
      exact ⟨_, hall.run, rfl, rfl, hall.pulses, rfl⟩

end Sys2Proof.Machine
end
